-- ==== Sys2Proof/Word.lean ====
section
/-! DEFINITION. The word types of the machine (rules R10, R13, R61, R63). -/

namespace Sys2Proof

/-- The unit of storage and of every data transfer (R40, R44). -/
abbrev Byte := BitVec 8

/-- The width of `pc`, `I`, `ir`, a stack slot and an instruction word (R12, R13, R15, R60). -/
abbrev Word := BitVec 16

/-- The 12-bit absolute address field `nnn` (R61). -/
abbrev Addr := BitVec 12

/-- A 4-bit field that is a number or is ignored: `n`, and the ignored nibbles (R61, R67). -/
abbrev Nibble := BitVec 4

/-- A general register index; every value of the 4-bit field exists (R10). -/
abbrev Reg := Fin 16

/-- A key index, 0..15 (R190). -/
abbrev Key := Fin 16

/-- `VF`, the other name of register 15 (R11). -/
abbrev vf : Reg := 15

end Sys2Proof
end

