-- ==== Sys2Proof/Syntax.lean ====
section
/-! DEFINITION. The instruction set: one constructor per row of spec/opcode_table.json (R65), in the table's order. -/

namespace Sys2Proof

/-- The 34 instructions. Operands are the fields of R61. A field the decoder reads past (R67) is carried as `ign` or `y`, so
that an instruction stands for exactly one word (log 18). -/
inductive Instr where
  /-- `00E0` (R175) -/
  | clearScreen
  /-- `00EE` (R100) -/
  | ret
  /-- `1NNN` (R101) -/
  | jump (nnn : Addr)
  /-- `2NNN` (R102) -/
  | call (nnn : Addr)
  /-- `3XKK` (R103) -/
  | skipEqImm (x : Reg) (kk : Byte)
  /-- `4XKK` (R104) -/
  | skipNeImm (x : Reg) (kk : Byte)
  /-- `5XY-`, low nibble ignored (R105, R67) -/
  | skipEqReg (x y : Reg) (ign : Nibble)
  /-- `6XKK` (R120) -/
  | loadImm (x : Reg) (kk : Byte)
  /-- `7XKK` (R121) -/
  | addImm (x : Reg) (kk : Byte)
  /-- `8XY0` (R122) -/
  | loadReg (x y : Reg)
  /-- `8XY1` (R123) -/
  | or (x y : Reg)
  /-- `8XY2` (R124) -/
  | and (x y : Reg)
  /-- `8XY3` (R125) -/
  | xor (x y : Reg)
  /-- `8XY4` (R126) -/
  | addReg (x y : Reg)
  /-- `8XY5` (R127) -/
  | subReg (x y : Reg)
  /-- `8XY6`, `y` ignored (R128, R67) -/
  | shr (x y : Reg)
  /-- `8XY7` (R129) -/
  | subnReg (x y : Reg)
  /-- `8XYE`, `y` ignored (R130, R67) -/
  | shl (x y : Reg)
  /-- `9XY-`, low nibble ignored (R106, R67) -/
  | skipNeReg (x y : Reg) (ign : Nibble)
  /-- `ANNN` (R150) -/
  | loadIndex (nnn : Addr)
  /-- `BNNN` (R107) -/
  | jumpOffset (nnn : Addr)
  /-- `CXKK` (R131) -/
  | randomAnd (x : Reg) (kk : Byte)
  /-- `DXYN` (R176) -/
  | drawSprite (x y : Reg) (n : Nibble)
  /-- `EX9E` (R191) -/
  | skipIfKeyDown (x : Reg)
  /-- `EXA1` (R192) -/
  | skipIfKeyUp (x : Reg)
  /-- `FX07` (R194) -/
  | readDelayTimer (x : Reg)
  /-- `FX0A` (R193) -/
  | awaitKey (x : Reg)
  /-- `FX15` (R195) -/
  | setDelayTimer (x : Reg)
  /-- `FX18` (R196) -/
  | setSoundTimer (x : Reg)
  /-- `FX1E` (R151) -/
  | addToIndex (x : Reg)
  /-- `FX29` (R152) -/
  | loadFontAddress (x : Reg)
  /-- `FX33` (R153) -/
  | storeBcd (x : Reg)
  /-- `FX55`, registers V0 to VX (R154) -/
  | storeBlock (x : Reg)
  /-- `FX65`, registers V0 to VX (R155) -/
  | loadBlock (x : Reg)
deriving DecidableEq, Repr

end Sys2Proof
end

