-- ==== Sys2Proof/WellFormed.lean ====
section
/-! DEFINITION. The form in which an assembler writes an instruction (R67, R71). The widths of the fields are in the types of
`Instr`, so what is left to check is that every ignored field holds 0. Decoding and execution never ask for it: an instruction
that is not well-formed in this sense runs like the one that is (R67). -/

namespace Sys2Proof

/-- "Canonical encodings put 0 in every ignored field" (R67): the low nibble of `5XY-` and `9XY-`, the Y field of `8XY6` and
`8XYE`. -/
def Instr.wf : Instr → Bool
  | .skipEqReg _ _ ign | .skipNeReg _ _ ign => ign == 0
  | .shr _ y | .shl _ y => y == 0
  | .clearScreen | .ret | .jump _ | .call _ | .skipEqImm _ _ | .skipNeImm _ _ | .loadImm _ _ | .addImm _ _ | .loadReg _ _
  | .or _ _ | .and _ _ | .xor _ _ | .addReg _ _ | .subReg _ _ | .subnReg _ _ | .loadIndex _ | .jumpOffset _ | .randomAnd _ _
  | .drawSprite _ _ _ | .skipIfKeyDown _ | .skipIfKeyUp _ | .readDelayTimer _ | .awaitKey _ | .setDelayTimer _
  | .setSoundTimer _ | .addToIndex _ | .loadFontAddress _ | .storeBcd _ | .storeBlock _ | .loadBlock _ => true

/-- The instruction with its ignored fields set to 0: what the assembler of R71 would have written. -/
def Instr.canonical : Instr → Instr
  | .skipEqReg x y _ => .skipEqReg x y 0
  | .skipNeReg x y _ => .skipNeReg x y 0
  | .shr x _ => .shr x 0
  | .shl x _ => .shl x 0
  | .clearScreen => .clearScreen
  | .ret => .ret
  | .jump nnn => .jump nnn
  | .call nnn => .call nnn
  | .skipEqImm x kk => .skipEqImm x kk
  | .skipNeImm x kk => .skipNeImm x kk
  | .loadImm x kk => .loadImm x kk
  | .addImm x kk => .addImm x kk
  | .loadReg x y => .loadReg x y
  | .or x y => .or x y
  | .and x y => .and x y
  | .xor x y => .xor x y
  | .addReg x y => .addReg x y
  | .subReg x y => .subReg x y
  | .subnReg x y => .subnReg x y
  | .loadIndex nnn => .loadIndex nnn
  | .jumpOffset nnn => .jumpOffset nnn
  | .randomAnd x kk => .randomAnd x kk
  | .drawSprite x y n => .drawSprite x y n
  | .skipIfKeyDown x => .skipIfKeyDown x
  | .skipIfKeyUp x => .skipIfKeyUp x
  | .readDelayTimer x => .readDelayTimer x
  | .awaitKey x => .awaitKey x
  | .setDelayTimer x => .setDelayTimer x
  | .setSoundTimer x => .setSoundTimer x
  | .addToIndex x => .addToIndex x
  | .loadFontAddress x => .loadFontAddress x
  | .storeBcd x => .storeBcd x
  | .storeBlock x => .storeBlock x
  | .loadBlock x => .loadBlock x

end Sys2Proof
end

