-- ==== Sys2Proof/Decode.lean ====
section
/-! DEFINITION. Decoding of instruction words and their encoding (rules R60 to R67). The numbers of the opcode map are those of
R65, most of which the spec supplies from general knowledge (D2; log 5). -/

namespace Sys2Proof

/-! ### Fields (R61) -/

/-- `ir[15:12]`, the family. -/
def opField (w : Word) : Nibble := w.extractLsb' 12 4
/-- `ir[11:8]` as a register index X. -/
def xField (w : Word) : Reg := (w.extractLsb' 8 4).toFin
/-- `ir[7:4]` as a register index Y. -/
def yField (w : Word) : Reg := (w.extractLsb' 4 4).toFin
/-- `ir[3:0]`, the nibble N or a sub-function. -/
def nField (w : Word) : Nibble := w.extractLsb' 0 4
/-- `ir[7:0]`, the immediate byte KK or a sub-function. -/
def kkField (w : Word) : Byte := w.extractLsb' 0 8
/-- `ir[11:0]`, the 12-bit address NNN. -/
def nnnField (w : Word) : Addr := w.extractLsb' 0 12

/-! ### Decoding (R64, R65, R66) -/

/-- The four classes of unrecognized words, one per line of the table of R66. The step treats all four as a no-op. -/
inductive Unrecognized where
  /-- `0NNN` other than `00E0` and `00EE`. -/
  | zeroFamily
  /-- `8XYn` with n one of 8, 9, A, B, C, D, F. -/
  | aluFamily
  /-- `EXkk` with kk neither 9E nor A1. -/
  | keyFamily
  /-- `FXkk` with kk none of 07, 0A, 15, 18, 1E, 29, 33, 55, 65. -/
  | miscFamily
deriving DecidableEq, Repr

/-- What the decoder makes of a word: a row of the opcode table, or a word that matches none, named by its class. -/
inductive Decoded where
  | instr (i : Instr)
  | unrecognized (why : Unrecognized)
deriving DecidableEq, Repr

/-- The instruction, if the word is recognized. -/
def Decoded.instr? : Decoded → Option Instr
  | .instr i => some i
  | .unrecognized _ => none

/-- The arithmetic and logic family, high nibble 8: told apart by the low nibble (R64 tier 3). -/
def decodeAlu (w : Word) : Decoded :=
  match nField w with
  | 0x0#4 => .instr (.loadReg (xField w) (yField w))
  | 0x1#4 => .instr (.or (xField w) (yField w))
  | 0x2#4 => .instr (.and (xField w) (yField w))
  | 0x3#4 => .instr (.xor (xField w) (yField w))
  | 0x4#4 => .instr (.addReg (xField w) (yField w))
  | 0x5#4 => .instr (.subReg (xField w) (yField w))
  | 0x6#4 => .instr (.shr (xField w) (yField w))
  | 0x7#4 => .instr (.subnReg (xField w) (yField w))
  | 0xE#4 => .instr (.shl (xField w) (yField w))
  | _ => .unrecognized .aluFamily

/-- The key skips, high nibble E: told apart by the low byte (R64 tier 4). -/
def decodeKey (w : Word) : Decoded :=
  match kkField w with
  | 0x9E#8 => .instr (.skipIfKeyDown (xField w))
  | 0xA1#8 => .instr (.skipIfKeyUp (xField w))
  | _ => .unrecognized .keyFamily

/-- Timers, index, BCD and block instructions, high nibble F: told apart by the low byte (R64 tier 4). -/
def decodeMisc (w : Word) : Decoded :=
  match kkField w with
  | 0x07#8 => .instr (.readDelayTimer (xField w))
  | 0x0A#8 => .instr (.awaitKey (xField w))
  | 0x15#8 => .instr (.setDelayTimer (xField w))
  | 0x18#8 => .instr (.setSoundTimer (xField w))
  | 0x1E#8 => .instr (.addToIndex (xField w))
  | 0x29#8 => .instr (.loadFontAddress (xField w))
  | 0x33#8 => .instr (.storeBcd (xField w))
  | 0x55#8 => .instr (.storeBlock (xField w))
  | 0x65#8 => .instr (.loadBlock (xField w))
  | _ => .unrecognized .miscFamily

/-- The zero-operand instructions: exact 16-bit matches (R64 tier 1). -/
def decodeZero (w : Word) : Decoded :=
  match w with
  | 0x00E0#16 => .instr .clearScreen
  | 0x00EE#16 => .instr .ret
  | _ => .unrecognized .zeroFamily

/-- The decoder: total on the 65536 words (R64, R65, R66). -/
def decode (w : Word) : Decoded :=
  match opField w with
  | 0x0#4 => decodeZero w
  | 0x1#4 => .instr (.jump (nnnField w))
  | 0x2#4 => .instr (.call (nnnField w))
  | 0x3#4 => .instr (.skipEqImm (xField w) (kkField w))
  | 0x4#4 => .instr (.skipNeImm (xField w) (kkField w))
  | 0x5#4 => .instr (.skipEqReg (xField w) (yField w) (nField w))
  | 0x6#4 => .instr (.loadImm (xField w) (kkField w))
  | 0x7#4 => .instr (.addImm (xField w) (kkField w))
  | 0x8#4 => decodeAlu w
  | 0x9#4 => .instr (.skipNeReg (xField w) (yField w) (nField w))
  | 0xA#4 => .instr (.loadIndex (nnnField w))
  | 0xB#4 => .instr (.jumpOffset (nnnField w))
  | 0xC#4 => .instr (.randomAnd (xField w) (kkField w))
  | 0xD#4 => .instr (.drawSprite (xField w) (yField w) (nField w))
  | 0xE#4 => decodeKey w
  | _ => decodeMisc w   -- 0xF, the one value left

/-- An instruction from its two bytes, the byte at the lower address first: `ir = hi :: lo` (R45, R60). -/
def decodeBytes (hi lo : Byte) : Decoded := decode (hi ++ lo)

/-! ### Encoding, from the formats of R62 and the map of R65 -/

/-- Format A: family nibble and 12-bit address. -/
def encodeA (op : Nibble) (nnn : Addr) : Word := op ++ nnn
/-- Formats XK and XF: family nibble, register, byte. -/
def encodeXK (op : Nibble) (x : Reg) (kk : Byte) : Word := op ++ (BitVec.ofFin x : Nibble) ++ kk
/-- Formats XY, XYF and XYN: family nibble, two registers, nibble. -/
def encodeXYN (op : Nibble) (x y : Reg) (n : Nibble) : Word :=
  op ++ (BitVec.ofFin x : Nibble) ++ (BitVec.ofFin y : Nibble) ++ n

/-- The word of an instruction (R62, R65). -/
def encode : Instr → Word
  | .clearScreen => 0x00E0
  | .ret => 0x00EE
  | .jump nnn => encodeA 0x1 nnn
  | .call nnn => encodeA 0x2 nnn
  | .skipEqImm x kk => encodeXK 0x3 x kk
  | .skipNeImm x kk => encodeXK 0x4 x kk
  | .skipEqReg x y ign => encodeXYN 0x5 x y ign
  | .loadImm x kk => encodeXK 0x6 x kk
  | .addImm x kk => encodeXK 0x7 x kk
  | .loadReg x y => encodeXYN 0x8 x y 0x0
  | .or x y => encodeXYN 0x8 x y 0x1
  | .and x y => encodeXYN 0x8 x y 0x2
  | .xor x y => encodeXYN 0x8 x y 0x3
  | .addReg x y => encodeXYN 0x8 x y 0x4
  | .subReg x y => encodeXYN 0x8 x y 0x5
  | .shr x y => encodeXYN 0x8 x y 0x6
  | .subnReg x y => encodeXYN 0x8 x y 0x7
  | .shl x y => encodeXYN 0x8 x y 0xE
  | .skipNeReg x y ign => encodeXYN 0x9 x y ign
  | .loadIndex nnn => encodeA 0xA nnn
  | .jumpOffset nnn => encodeA 0xB nnn
  | .randomAnd x kk => encodeXK 0xC x kk
  | .drawSprite x y n => encodeXYN 0xD x y n
  | .skipIfKeyDown x => encodeXK 0xE x 0x9E
  | .skipIfKeyUp x => encodeXK 0xE x 0xA1
  | .readDelayTimer x => encodeXK 0xF x 0x07
  | .awaitKey x => encodeXK 0xF x 0x0A
  | .setDelayTimer x => encodeXK 0xF x 0x15
  | .setSoundTimer x => encodeXK 0xF x 0x18
  | .addToIndex x => encodeXK 0xF x 0x1E
  | .loadFontAddress x => encodeXK 0xF x 0x29
  | .storeBcd x => encodeXK 0xF x 0x33
  | .storeBlock x => encodeXK 0xF x 0x55
  | .loadBlock x => encodeXK 0xF x 0x65

/-- The high byte of a word, stored at the lower address (R45). -/
def hiByte (w : Word) : Byte := w.extractLsb' 8 8
/-- The low byte of a word, stored at the higher address (R45). -/
def loByte (w : Word) : Byte := w.extractLsb' 0 8

/-! ### The match and mask columns of the opcode table (R65) -/

/-- The `match` of the instruction's row; no two rows have the same one. -/
def Instr.rowMatch : Instr → Word
  | .clearScreen => 0x00E0
  | .ret => 0x00EE
  | .jump _ => 0x1000
  | .call _ => 0x2000
  | .skipEqImm _ _ => 0x3000
  | .skipNeImm _ _ => 0x4000
  | .skipEqReg _ _ _ => 0x5000
  | .loadImm _ _ => 0x6000
  | .addImm _ _ => 0x7000
  | .loadReg _ _ => 0x8000
  | .or _ _ => 0x8001
  | .and _ _ => 0x8002
  | .xor _ _ => 0x8003
  | .addReg _ _ => 0x8004
  | .subReg _ _ => 0x8005
  | .shr _ _ => 0x8006
  | .subnReg _ _ => 0x8007
  | .shl _ _ => 0x800E
  | .skipNeReg _ _ _ => 0x9000
  | .loadIndex _ => 0xA000
  | .jumpOffset _ => 0xB000
  | .randomAnd _ _ => 0xC000
  | .drawSprite _ _ _ => 0xD000
  | .skipIfKeyDown _ => 0xE09E
  | .skipIfKeyUp _ => 0xE0A1
  | .readDelayTimer _ => 0xF007
  | .awaitKey _ => 0xF00A
  | .setDelayTimer _ => 0xF015
  | .setSoundTimer _ => 0xF018
  | .addToIndex _ => 0xF01E
  | .loadFontAddress _ => 0xF029
  | .storeBcd _ => 0xF033
  | .storeBlock _ => 0xF055
  | .loadBlock _ => 0xF065

/-- The `mask` of the instruction's row: "a word `w` selects the row iff `w AND mask = match`" (R65). -/
def Instr.rowMask : Instr → Word
  | .clearScreen | .ret => 0xFFFF
  | .jump _ | .call _ | .skipEqImm _ _ | .skipNeImm _ _ | .skipEqReg _ _ _ | .loadImm _ _ | .addImm _ _
  | .skipNeReg _ _ _ | .loadIndex _ | .jumpOffset _ | .randomAnd _ _ | .drawSprite _ _ _ => 0xF000
  | .loadReg _ _ | .or _ _ | .and _ _ | .xor _ _ | .addReg _ _ | .subReg _ _ | .shr _ _ | .subnReg _ _ | .shl _ _ => 0xF00F
  | .skipIfKeyDown _ | .skipIfKeyUp _ | .readDelayTimer _ | .awaitKey _ | .setDelayTimer _ | .setSoundTimer _
  | .addToIndex _ | .loadFontAddress _ | .storeBcd _ | .storeBlock _ | .loadBlock _ => 0xF0FF

/-! ### The opcode table's numbering -/

/-- The instruction word whose bits, numbered as spec/opcode_table.json numbers them (bit 15 the highest of the one 16-bit
word), are those of `w` below `nbits`, and 0 from `nbits` up. -/
def tableWord (nbits w : Nat) : Word := BitVec.ofNat 16 (w % 2 ^ nbits)

/-- The decoder's answer on that word, laid out as two bytes, high byte first (R45, R60). -/
def decodeTableWord (nbits w : Nat) : Option Instr :=
  (decodeBytes (hiByte (tableWord nbits w)) (loByte (tableWord nbits w))).instr?

end Sys2Proof
end

