-- ==== Sys2Proof/Config.lean ====
section
/-! DEFINITION. The free values of the model: what the environment supplies to a step and no rule constrains. -/

namespace Sys2Proof

/-- FREE VALUE. The key sample of the step that takes sample number `n`, when no script gives one (R190: "The sample is
unconstrained"; log 1). It has no body: no proof can evaluate it. -/
opaque Config.freeKeys : Nat → BitVec 16

/-- FREE VALUE. The random byte of the step that takes sample number `n`, when no script gives one (R131, D9: "an input of
the step on which the rules place no constraint"; log 1). -/
opaque Config.freeRand : Nat → BitVec 8

end Sys2Proof
end

