-- ==== Sys2Proof/Machine/State.lean ====
section
/-! DEFINITION. The state of the machine as plain data (rules R10 to R26), what stops it, and its value after reset (R24). -/

namespace Sys2Proof.Machine

/-- The engine state (R20). -/
inductive Mode where
  /-- The next step fetches and executes an instruction. -/
  | run
  /-- An await-key instruction is pending. -/
  | awaitKey
  /-- The engine has stopped for good; only reset leaves this mode (R213). -/
  | fault
deriving DecidableEq, Repr

/-- Why `mode` is FAULT (R21, R211). The register's two-bit codes are given by `FaultCause.code`. -/
inductive FaultCause where
  /-- Code 0, no fault. -/
  | none
  /-- Code 1, a call at `sp = 16`. -/
  | stackOverflow
  /-- Code 2, a return at `sp = 0`. -/
  | stackUnderflow
deriving DecidableEq, Repr

/-- A command on the display port (R224, R170 to R174); `x` is the column, `y` the row, `v` the bit XORed in (R172). -/
inductive DispCmd where
  | clear
  | render
  | get (x : Fin 64) (y : Fin 32)
  | xor (x : Fin 64) (y : Fin 32) (v : Bool)
deriving DecidableEq, Repr

/-- The 64 x 32 pixels of the Display Surface, row by row: `fb[y][x]`, true is on (R170). -/
abbrev Screen := Vector (Vector Bool 64) 32

/-- A screen with every pixel off. -/
def Screen.allOff : Screen := Vector.replicate 32 (Vector.replicate 64 false)

/-- The inputs of one step (R68): the key sample, bit k set iff key k is down (R190), and the random byte (R131). -/
structure Input where
  keys : BitVec 16
  rand : Byte
deriving DecidableEq, Repr

/-- The machine. `V` to `faultCause` are the core's state (R10 to R22), the rest is the environment kept beside it (R26) and
the model's own bookkeeping of the step's inputs (log 1). -/
structure State where
  /-- General registers (R10). -/
  V : Vector Byte 16
  /-- Index register (R12). -/
  I : Word
  /-- Program counter (R13). -/
  pc : Word
  /-- Memory: address and byte, in the canonical form of `Memory.wf` (R40; log 20). -/
  mem : List Host.Cell
  /-- Call stack slots, outside memory (R15). -/
  stack : Vector Word 16
  /-- Stack pointer, the number of return addresses held (R16). -/
  sp : Fin 17
  /-- Delay timer (R17). -/
  delay : Byte
  /-- Sound timer (R18). -/
  sound : Byte
  /-- Current Instruction, kept across steps (R19). -/
  ir : Word
  /-- Engine state (R20). -/
  mode : Mode
  /-- Fault cause (R21). -/
  faultCause : FaultCause
  /-- Pixels of the Display Surface, environment (R26, R170). -/
  fb : Screen
  /-- Display commands issued so far, oldest first: the step's display output (R68, R224; log 14). -/
  dispOut : List DispCmd
  /-- The key sample of the current step (R190). -/
  keyIn : BitVec 16
  /-- The random byte of the current step (R131). -/
  randIn : Byte
  /-- MODEL'S OWN: the samples the environment will present to the coming steps, first one first; where the list has ended
  the sample is a free value (log 1). -/
  inputs : List Input
  /-- MODEL'S OWN: how many samples have been taken, the argument of the free values (log 1). -/
  tick : Nat
deriving DecidableEq, Repr

/-- There is no fault: "all effects are total functions over valid Machine State" (R210). The engine's FAULT mode (R211 to
R213) is a state of the machine, reached by a next state, not a stop of the model (log 9, log 17). -/
inductive Fault
deriving DecidableEq, Repr

/-- Why an instruction has no meaning here. -/
inductive Refusal where
  /-- Raised by no arm: every instruction of the opcode table has its meaning (log 17). It would be a safe stop. -/
  | notModelled (mnemonic : String)
deriving DecidableEq, Repr

/-- The machine right after reset with no program loaded (R24, R240). Memory lists nothing: an unlisted address reads as its
reset content (`Memory.unlisted`; log 20). The pixels are the open parameter FB_INIT, here all off (log 3); `dispOut`,
`keyIn`, `randIn`, `inputs` and `tick` start as log 2 says. -/
def State.reset : State where
  V := Vector.replicate 16 0
  I := 0
  pc := 0x0200
  mem := []
  stack := Vector.replicate 16 0
  sp := 0
  delay := 0
  sound := 0
  ir := 0
  mode := .run
  faultCause := .none
  fb := Screen.allOff
  dispOut := []
  keyIn := 0
  randIn := 0
  inputs := []
  tick := 0

end Sys2Proof.Machine
end

