-- ==== Sys2Proof/Machine/Font.lean ====
section
/-! DEFINITION. The font table FONT (rule R42), the conventional glyphs the spec supplies from general knowledge (D3; log 4). -/

namespace Sys2Proof.Machine

/-- The sixteen glyphs, five row bytes each, top row first, bit 7 leftmost (R42). -/
def glyphs : List (List Byte) :=
  [[0xF0, 0x90, 0x90, 0x90, 0xF0], [0x20, 0x60, 0x20, 0x20, 0x70], [0xF0, 0x10, 0xF0, 0x80, 0xF0],
   [0xF0, 0x10, 0xF0, 0x10, 0xF0], [0x90, 0x90, 0xF0, 0x10, 0x10], [0xF0, 0x80, 0xF0, 0x10, 0xF0],
   [0xF0, 0x80, 0xF0, 0x90, 0xF0], [0xF0, 0x10, 0x20, 0x40, 0x40], [0xF0, 0x90, 0xF0, 0x90, 0xF0],
   [0xF0, 0x90, 0xF0, 0x10, 0xF0], [0xF0, 0x90, 0xF0, 0x90, 0x90], [0xE0, 0x90, 0xE0, 0x90, 0xE0],
   [0xF0, 0x80, 0x80, 0x80, 0xF0], [0xE0, 0x90, 0x90, 0x90, 0xE0], [0xF0, 0x80, 0xF0, 0x80, 0xF0],
   [0xF0, 0x80, 0xF0, 0x80, 0x80]]

/-- `FONT[0..79]`. -/
def fontBytes : List Byte := glyphs.flatten

/-- `font_table_base`: "resident at address 0x050" (R42, R152). -/
def fontBase : Nat := 0x050

end Sys2Proof.Machine
end

