-- ==== Sys2Proof/Machine/Ops.lean ====
section
/-! DEFINITION. The named operations every instruction is built from: memory, registers, call stack, timers, inputs, fetch,
fault entry, the pending await-key, reset and program load. -/

namespace Sys2Proof.Machine

/-! ### Memory as canonical plain data (R40, R44; log 20) -/

/-- What an address the list does not mention reads as: its content after reset, FONT at 0x050..0x09F and zero elsewhere
(R24, R42). -/
def Memory.unlisted (a : Nat) : Byte :=
  if a < fontBase then 0 else fontBytes.getD (a - fontBase) 0

/-- The byte at address `a`. -/
def Memory.read : List Host.Cell → Nat → Byte
  | [], a => Memory.unlisted a
  | (k, b) :: m, a => if k = a then b else Memory.read m a

/-- Puts a cell at its place in a rising list. -/
def Memory.insert (a : Nat) (b : Byte) : List Host.Cell → List Host.Cell
  | [] => [(a, b)]
  | (k, c) :: m => if a < k then (a, b) :: (k, c) :: m else (k, c) :: Memory.insert a b m

/-- Stores `b` at `a`. Writing what an unlisted address reads as removes the entry, so equal memories are equal lists. -/
def Memory.write (m : List Host.Cell) (a : Nat) (b : Byte) : List Host.Cell :=
  if b = Memory.unlisted a then m.filter (fun c => c.1 != a)
  else Memory.insert a b (m.filter (fun c => c.1 != a))

/-- The canonical form: addresses strictly rising, inside the 4096 bytes, no entry equal to what an unlisted address reads
as. -/
abbrev Memory.wf (m : List Host.Cell) : Prop :=
  m.Pairwise (fun c d => c.1 < d.1) ∧ ∀ c ∈ m, c.1 < 4096 ∧ c.2 ≠ Memory.unlisted c.1

/-- `MemRead(addr, 1) = mem[addr mod 4096]` (R43, R44). -/
def State.memRead (s : State) (addr : Nat) : Byte := Memory.read s.mem (addr % 4096)

/-- `MemWrite(addr, 1, v) : mem[addr mod 4096] <- v` (R43, R44); nothing is write-protected (R49; log 13). -/
def State.memWrite (s : State) (addr : Nat) (v : Byte) : State := { s with mem := Memory.write s.mem (addr % 4096) v }

/-- `MemWrite`s of successive bytes at ascending addresses from `base`, wrapping from 0xFFF to 0x000 (R43, R156). -/
def State.storeBytes (s : State) (base : Nat) : List Byte → State
  | [] => s
  | b :: bs => (s.memWrite base b).storeBytes (base + 1) bs

/-! ### Registers (R10 to R18) -/

/-- `V[x]`. -/
def State.reg (s : State) (x : Reg) : Byte := s.V[x.val]

/-- `V[x] <- v`. -/
def State.setReg (s : State) (x : Reg) (v : Byte) : State := { s with V := s.V.set x.val v }

/-- `I <- v`, all 16 bits (R12). -/
def State.setI (s : State) (v : Word) : State := { s with I := v }

/-- `pc <- v`, all 16 bits (R14). -/
def State.setPc (s : State) (v : Word) : State := { s with pc := v }

/-- `delay <- v` (R17). -/
def State.setDelay (s : State) (v : Byte) : State := { s with delay := v }

/-- `sound <- v` (R18). -/
def State.setSound (s : State) (v : Byte) : State := { s with sound := v }

/-- A skip: if the condition holds, `pc <- (pc + 2) mod 65536`, else nothing (R108). -/
def State.skipIf (s : State) (c : Bool) : State := { s with pc := if c then s.pc + 2 else s.pc }

/-- The registers V0 to VX in ascending order (R154, R155). -/
def regsUpTo (x : Reg) : List Reg :=
  [0, 1, 2, 3, 4, 5, 6, 7, 8, 9, 10, 11, 12, 13, 14, 15].filter (· ≤ x)

/-! ### Call stack (R15, R16) -/

/-- `Push(v)`: `stack[sp] <- v ; sp <- sp + 1`, for `sp <= 15`. -/
def State.push (s : State) (v : Word) (h : s.sp.val < 16) : State :=
  { s with stack := s.stack.set s.sp.val v, sp := ⟨s.sp.val + 1, by omega⟩ }

/-- The slot `Pop()` returns: `stack[sp - 1]`, for `sp >= 1`. -/
def State.top (s : State) (h : 0 < s.sp.val) : Word := s.stack[s.sp.val - 1]'(by omega)

/-- `Pop()`: `sp <- sp - 1`; the slot keeps its value. -/
def State.pop (s : State) (h : 0 < s.sp.val) : State := { s with sp := ⟨s.sp.val - 1, by omega⟩ }

/-! ### Fault entry (R211, R212) -/

/-- The two-bit code of a cause, as `fault_cause` holds it (R21, R211). -/
def FaultCause.code : FaultCause → BitVec 2
  | .none => 0
  | .stackOverflow => 1
  | .stackUnderflow => 2

/-- `raise Fault(cause)`: the mode becomes FAULT and the cause is recorded, nothing else changes; the countdown and the `pc`
advance of the step stand (R212; log 9). There is no handler and no return from it (R213). -/
def State.raise (s : State) (cause : FaultCause) : State := { s with mode := .fault, faultCause := cause }

/-! ### The parts of a step (R68) -/

/-- The sample this step takes: the next one of the script, or free values (R4, R190, R131; log 1). -/
def State.nextInput (s : State) : Input :=
  s.inputs.head?.getD { keys := Config.freeKeys s.tick, rand := Config.freeRand s.tick }

/-- Samples `key_in` and `rand_in` for this step, once (R68, R190). -/
def State.sample (s : State) : State :=
  { s with keyIn := s.nextInput.keys, randIn := s.nextInput.rand, inputs := s.inputs.tail, tick := s.tick + 1 }

/-- "If `delay > 0`, decrement it by 1": the countdown at the start of a step (R17, R217). `sound` has none (R18; log 10). -/
def State.countdown (s : State) : State := { s with delay := if s.delay = 0 then 0 else s.delay - 1 }

/-- What every step outside FAULT does first (R68 inputs and (1)). -/
def State.beginStep (s : State) : State := s.sample.countdown

/-- The word at `pc`: two bytes, big-endian, whatever the parity, wrapping at the end of memory (R45, R46, R69). -/
def State.fetchWord (s : State) : Word := s.memRead s.pc.toNat ++ s.memRead (s.pc.toNat + 1)

/-- `ir <- MemRead(pc, 1) :: MemRead(pc + 1, 1) ; pc <- (pc + 2) mod 65536` (R68 (2), R69). -/
def State.fetch (s : State) : State := { s with ir := s.fetchWord, pc := s.pc + 2 }

/-- `Key(k)`: is key k down in this step's sample (R190). -/
def State.keyDown (s : State) (k : Key) : Bool := s.keyIn.getLsbD k.val

/-- The least i with `key_in[i] = 1`; none iff `key_in = 0` (R68, R193; log 11). -/
def leastKey (keys : BitVec 16) : Option Key :=
  [0, 1, 2, 3, 4, 5, 6, 7, 8, 9, 10, 11, 12, 13, 14, 15].find? (fun k : Key => keys.getLsbD k.val)

/-- The byte a key number is written as, 0x00 .. 0x0F (R193). -/
def keyByte (k : Key) : Byte := BitVec.ofNat 8 k.val

/-- The look at the keys of await-key, in the fetching step and in every waiting step: with a key down, `V[x] <- least key`
and the engine runs on; with none it waits (R193, R218). -/
def State.lookForKey (s : State) (x : Reg) : State :=
  match leastKey s.keyIn with
  | some k => { s.setReg x (keyByte k) with mode := .run }
  | none => { s with mode := .awaitKey }

/-- A step in AWAIT_KEY after the countdown: no fetch; X is that of the retained `ir` (R68, R19, R218). -/
def State.awaitStep (s : State) : State := s.lookForKey (xField s.ir)

/-! ### Reset, load, outputs (R224, R240, R241) -/

/-- `Reset(FONT, PROGRAM)`: the core as R24 gives it, with FONT at 0x050 and PROGRAM at 0x200 (at most 3584 bytes, R241); the
display and the inputs are not core state and stay (R240; log 15). Every byte the list does not mention is zero or, at
0x050..0x09F, is overwritten here by the 80 bytes of FONT. -/
def State.resetCore (font program : List Byte) (s : State) : State :=
  ({ s with
      V := Vector.replicate 16 0, I := 0, pc := 0x0200, mem := [], stack := Vector.replicate 16 0, sp := 0, delay := 0,
      sound := 0, ir := 0, mode := .run, faultCause := .none }.storeBytes fontBase font).storeBytes 0x200 program

/-- Stores the word where the next step fetches, high byte first, and lets that step fetch (R45, R20; log 19). -/
def State.placeWord (s : State) (w : Word) : State :=
  { s.storeBytes s.pc.toNat [hiByte w, loByte w] with mode := .run }

/-- `sound_out[7:0]` (R224). -/
def State.soundOut (s : State) : Byte := s.sound

/-- `fault_out[1:0]` (R224). -/
def State.faultOut (s : State) : BitVec 2 := s.faultCause.code

/-- `waiting_out`: 1 iff the mode is AWAIT_KEY (R224). -/
def State.waitingOut (s : State) : Bool := s.mode == .awaitKey

end Sys2Proof.Machine
end

