-- ==== Sys2Proof/Machine/Flags.lean ====
section
/-! DEFINITION. The values of the only flag, VF, and the exact results reduced to a byte (rules R27, R132). -/

namespace Sys2Proof.Machine

/-- A flag is written as 0 or 1 (R27). -/
def flagByte (b : Bool) : Byte := if b then 1 else 0

/-- add-reg: 1 if the sum exceeds 255 (R126). -/
def carryFlag (a b : Byte) : Byte := flagByte (255 < a.toNat + b.toNat)

/-- sub-reg and subn-reg: 1 if minuend > subtrahend, strictly, unsigned (R127, R129, R132). -/
def greaterFlag (minuend subtrahend : Byte) : Byte := flagByte (subtrahend.toNat < minuend.toNat)

/-- shr: the bit shifted out, `a mod 2` (R128). -/
def lowBitFlag (a : Byte) : Byte := BitVec.ofNat 8 (a.toNat % 2)

/-- shl: the bit shifted out, `a div 128` (R130). -/
def highBitFlag (a : Byte) : Byte := BitVec.ofNat 8 (a.toNat / 128)

/-- `(a + b) mod 256` (R132). -/
def sumByte (a b : Byte) : Byte := BitVec.ofNat 8 (a.toNat + b.toNat)

/-- `(a - b) mod 256`, the non-negative remainder of the exact difference (R132). -/
def diffByte (a b : Byte) : Byte := BitVec.ofInt 8 ((a.toNat : Int) - (b.toNat : Int))

/-- `a div 2` (R128, R132). -/
def halfByte (a : Byte) : Byte := BitVec.ofNat 8 (a.toNat / 2)

/-- `(2 * a) mod 256` (R130, R132). -/
def doubleByte (a : Byte) : Byte := BitVec.ofNat 8 (2 * a.toNat)

/-- `V[15] <- flag`, then `V[x] <- result`: for X = 15 the result stands (R28, R133, D4; log 8). -/
def State.setFlagThenReg (s : State) (flag : Byte) (x : Reg) (result : Byte) : State :=
  (s.setReg vf flag).setReg x result

end Sys2Proof.Machine
end

