-- ==== Sys2Proof/Machine/Alu.lean ====
section
/-! DEFINITION. Register load, arithmetic and logic (rules R120 to R133). -/

namespace Sys2Proof.Machine

/-- `load-imm Vx, kk` (R120). -/
def execLoadImm (x : Reg) (kk : Byte) (s : State) : Host.Outcome State Fault Refusal :=
  .next (s.setReg x kk)

/-- `add-imm Vx, kk` (R121): no flag. -/
def execAddImm (x : Reg) (kk : Byte) (s : State) : Host.Outcome State Fault Refusal :=
  .next (s.setReg x (sumByte (s.reg x) kk))

/-- `load-reg Vx, Vy` (R122). -/
def execLoadReg (x y : Reg) (s : State) : Host.Outcome State Fault Refusal :=
  .next (s.setReg x (s.reg y))

/-- `or Vx, Vy` (R123): VF not written. -/
def execOr (x y : Reg) (s : State) : Host.Outcome State Fault Refusal :=
  .next (s.setReg x (s.reg x ||| s.reg y))

/-- `and Vx, Vy` (R124): VF not written. -/
def execAnd (x y : Reg) (s : State) : Host.Outcome State Fault Refusal :=
  .next (s.setReg x (s.reg x &&& s.reg y))

/-- `xor Vx, Vy` (R125): VF not written. -/
def execXor (x y : Reg) (s : State) : Host.Outcome State Fault Refusal :=
  .next (s.setReg x (s.reg x ^^^ s.reg y))

/-- `add-reg Vx, Vy` (R126, R133). -/
def execAddReg (x y : Reg) (s : State) : Host.Outcome State Fault Refusal :=
  .next (s.setFlagThenReg (carryFlag (s.reg x) (s.reg y)) x (sumByte (s.reg x) (s.reg y)))

/-- `sub-reg Vx, Vy` (R127, R133). -/
def execSubReg (x y : Reg) (s : State) : Host.Outcome State Fault Refusal :=
  .next (s.setFlagThenReg (greaterFlag (s.reg x) (s.reg y)) x (diffByte (s.reg x) (s.reg y)))

/-- `shr Vx` (R128, R133): the Y field is not used (R67). -/
def execShr (x _y : Reg) (s : State) : Host.Outcome State Fault Refusal :=
  .next (s.setFlagThenReg (lowBitFlag (s.reg x)) x (halfByte (s.reg x)))

/-- `subn-reg Vx, Vy` (R129, R133): the destination is X. -/
def execSubnReg (x y : Reg) (s : State) : Host.Outcome State Fault Refusal :=
  .next (s.setFlagThenReg (greaterFlag (s.reg y) (s.reg x)) x (diffByte (s.reg y) (s.reg x)))

/-- `shl Vx` (R130, R133): the Y field is not used (R67). -/
def execShl (x _y : Reg) (s : State) : Host.Outcome State Fault Refusal :=
  .next (s.setFlagThenReg (highBitFlag (s.reg x)) x (doubleByte (s.reg x)))

/-- `random-and Vx, kk` (R131): the step's random byte, on which nothing is assumed (log 1). -/
def execRandomAnd (x : Reg) (kk : Byte) (s : State) : Host.Outcome State Fault Refusal :=
  .next (s.setReg x (s.randIn &&& kk))

end Sys2Proof.Machine
end

