-- ==== Sys2Proof/Machine/Operands.lean ====
section
/-! DEFINITION. The operand forms: immediates, targets, effective addresses, key numbers, blocks of registers and sprites
(rules R63, R156, R152 to R155, R176, R191). Each is a function of the operands latched at the start of execution (R70). -/

namespace Sys2Proof.Machine

/-- `zext_16(nnn)` (R63). -/
def zextAddr (nnn : Addr) : Word := nnn.setWidth 16

/-- `zext_16(v)` of a register byte (R107, R151). -/
def zextByte (v : Byte) : Word := v.setWidth 16

/-- The sum `I + i` in full; the memory interface reduces it to `EA(i) = (I + i) mod 4096` (R156, R43). -/
def State.ea (s : State) (i : Nat) : Nat := s.I.toNat + i

/-- `0x050 + 5 * a`, the whole byte, no mask (R152). -/
def fontAddress (a : Byte) : Word := BitVec.ofNat 16 (fontBase + 5 * a.toNat)

/-- Hundreds, tens and ones of `a`, one binary digit a byte (R153). -/
def bcdDigits (a : Byte) : List Byte :=
  [BitVec.ofNat 8 (a.toNat / 100), BitVec.ofNat 8 (a.toNat / 10 % 10), BitVec.ofNat 8 (a.toNat % 10)]

/-- `V[0] .. V[x]` (R154). -/
def State.blockBytes (s : State) (x : Reg) : List Byte := (regsUpTo x).map s.reg

/-- `V[i] <- MemRead(I + i, 1)` for each register `i` of a list, every address from the `I` latched in `s` (R155). -/
def State.loadRegs (s : State) (rs : List Reg) : State :=
  rs.foldl (fun t i => t.setReg i (s.memRead (s.ea i.val))) s

/-- The key a key skip asks for: the low 4 bits of the register (R191, R192, D13; log 12). -/
def keyOf (a : Byte) : Key := ⟨a.toNat % 16, Nat.mod_lt _ (by decide)⟩

/-- Column and row of the pixel for sprite bit `7 - c` of row `r`, each wrapped on its own (R176, D20; log 14). -/
def spritePos (a b : Byte) (r c : Nat) : Fin 64 × Fin 32 :=
  (⟨(a.toNat + c) % 64, Nat.mod_lt _ (by decide)⟩, ⟨(b.toNat + r) % 32, Nat.mod_lt _ (by decide)⟩)

/-- Is pixel `c` of row `r` of the sprite at `I` set: bit 7 is the leftmost (R176). -/
def State.spriteBit (s : State) (r c : Nat) : Bool := (s.memRead (s.ea r)).getLsbD (7 - c)

/-- The pixels an `n`-row sprite at (a, b) plots, in the order of the loops of R176: one for each set bit. -/
def State.spritePixels (s : State) (a b : Byte) (n : Nat) : List (Fin 64 × Fin 32) :=
  (List.range n).flatMap fun r =>
    ((List.range 8).filter fun c => s.spriteBit r c).map fun c => spritePos a b r c

end Sys2Proof.Machine
end

