-- ==== Sys2Proof/Machine/Control.lean ====
section
/-! DEFINITION. Control transfer (rules R100 to R109). `s.pc` is already past the instruction (R69). -/

namespace Sys2Proof.Machine

/-- `return` (R100): pops, or with nothing held raises STACK_UNDERFLOW (R211, D11; log 9). -/
def execRet (s : State) : Host.Outcome State Fault Refusal :=
  .next (if h : 0 < s.sp.val then (s.pop h).setPc (s.top h) else s.raise .stackUnderflow)

/-- `jump nnn` (R101). -/
def execJump (nnn : Addr) (s : State) : Host.Outcome State Fault Refusal :=
  .next (s.setPc (zextAddr nnn))

/-- `call nnn` (R102): pushes `pc`, or with 16 held raises STACK_OVERFLOW (R211, D11; log 9). -/
def execCall (nnn : Addr) (s : State) : Host.Outcome State Fault Refusal :=
  .next (if h : s.sp.val < 16 then (s.push s.pc h).setPc (zextAddr nnn) else s.raise .stackOverflow)

/-- `skip-eq-imm Vx, kk` (R103, R108). -/
def execSkipEqImm (x : Reg) (kk : Byte) (s : State) : Host.Outcome State Fault Refusal :=
  .next (s.skipIf (s.reg x == kk))

/-- `skip-ne-imm Vx, kk` (R104, R108). -/
def execSkipNeImm (x : Reg) (kk : Byte) (s : State) : Host.Outcome State Fault Refusal :=
  .next (s.skipIf (s.reg x != kk))

/-- `skip-eq-reg Vx, Vy` (R105, R108): the low nibble is ignored (R67). -/
def execSkipEqReg (x y : Reg) (_ign : Nibble) (s : State) : Host.Outcome State Fault Refusal :=
  .next (s.skipIf (s.reg x == s.reg y))

/-- `skip-ne-reg Vx, Vy` (R106, R108): the low nibble is ignored (R67). -/
def execSkipNeReg (x y : Reg) (_ign : Nibble) (s : State) : Host.Outcome State Fault Refusal :=
  .next (s.skipIf (s.reg x != s.reg y))

/-- `jump-offset nnn` (R107): always V0, 16-bit sum, not reduced to 12 bits (R14; log 7). -/
def execJumpOffset (nnn : Addr) (s : State) : Host.Outcome State Fault Refusal :=
  .next (s.setPc (zextByte (s.reg 0) + zextAddr nnn))

end Sys2Proof.Machine
end

