-- ==== Sys2Proof/Machine/Screen.lean ====
section
/-! DEFINITION. The Display Surface contract (rules R170 to R174), environment kept beside the core (R26). -/

namespace Sys2Proof.Machine

/-- `fb[y][x]` (R170). -/
def State.pixel (s : State) (x : Fin 64) (y : Fin 32) : Bool := s.fb[y.val][x.val]

/-- Records a command on the display port (R68 "Outputs", R224; log 14). -/
def State.emit (s : State) (c : DispCmd) : State := { s with dispOut := s.dispOut ++ [c] }

/-- `Disp.get(x, y)`: returns `fb[y][x]`, changes nothing (R171). -/
def State.dispGet (s : State) (x : Fin 64) (y : Fin 32) : Bool × State := (s.pixel x y, s.emit (.get x y))

/-- `Disp.xor(x, y, v)`: `fb[y][x] <- fb[y][x] XOR v` (R172). -/
def State.dispXor (s : State) (x : Fin 64) (y : Fin 32) (v : Bool) : State :=
  { s with fb := s.fb.set y.val (s.fb[y.val].set x.val (s.pixel x y ^^ v)), dispOut := s.dispOut ++ [.xor x y v] }

/-- `Disp.clear()`: all pixels off, then the render that is part of it, not a second command (R173, R175, C10; log 14). -/
def State.dispClear (s : State) : State := { s with fb := Screen.allOff, dispOut := s.dispOut ++ [.clear] }

/-- `Disp.render()`: an output event, no pixel changes (R174). -/
def State.dispRender (s : State) : State := s.emit .render

/-- How often a list of display commands renders: each `render` once, each `clear` once (R173, R174). -/
def renders (cs : List DispCmd) : Nat := cs.countP (fun c => c == .clear || c == .render)

end Sys2Proof.Machine
end

