-- ==== Sys2Proof/Machine/Display.lean ====
section
/-! DEFINITION. Display instructions (rules R175, R176). -/

namespace Sys2Proof.Machine

/-- Plots one pixel: `hit <- hit OR Disp.get(px, py)`, then `Disp.xor(px, py, 1)` (R176). -/
def plotPixel (p : Bool × State) (q : Fin 64 × Fin 32) : Bool × State :=
  (p.1 || (p.2.dispGet q.1 q.2).1, (p.2.dispGet q.1 q.2).2.dispXor q.1 q.2 true)

/-- Plots a list of pixels in order, from `hit = 0` (R176). -/
def State.plot (s : State) (ps : List (Fin 64 × Fin 32)) : Bool × State := ps.foldl plotPixel (false, s)

/-- The draw: plot the sprite, `V[15] <- hit`, then one render (R176). `a` and `b` are the latched coordinates. -/
def State.draw (s : State) (a b : Byte) (n : Nat) : State :=
  ((s.plot (s.spritePixels a b n)).2.setReg vf (flagByte (s.plot (s.spritePixels a b n)).1)).dispRender

/-- `clear-screen` (R175). -/
def execClearScreen (s : State) : Host.Outcome State Fault Refusal :=
  .next s.dispClear

/-- `draw-sprite Vx, Vy, n` (R176): the coordinates are the old V[x], V[y], also for X or Y = 15 (R70; log 8). -/
def execDrawSprite (x y : Reg) (n : Nibble) (s : State) : Host.Outcome State Fault Refusal :=
  .next (s.draw (s.reg x) (s.reg y) n.toNat)

end Sys2Proof.Machine
end

