-- ==== Sys2Proof/Machine/IndexMem.lean ====
section
/-! DEFINITION. Index register and memory (rules R150 to R156). None of these moves `I` by an access (R156). -/

namespace Sys2Proof.Machine

/-- `load-index nnn` (R150). -/
def execLoadIndex (nnn : Addr) (s : State) : Host.Outcome State Fault Refusal :=
  .next (s.setI (zextAddr nnn))

/-- `add-to-index Vx` (R151): 16-bit sum, no 12-bit mask, no flag (log 7). -/
def execAddToIndex (x : Reg) (s : State) : Host.Outcome State Fault Refusal :=
  .next (s.setI (s.I + zextByte (s.reg x)))

/-- `load-font-address Vx` (R152). -/
def execLoadFontAddress (x : Reg) (s : State) : Host.Outcome State Fault Refusal :=
  .next (s.setI (fontAddress (s.reg x)))

/-- `store-bcd Vx` (R153). -/
def execStoreBcd (x : Reg) (s : State) : Host.Outcome State Fault Refusal :=
  .next (s.storeBytes (s.ea 0) (bcdDigits (s.reg x)))

/-- `store-block Vx` (R154). -/
def execStoreBlock (x : Reg) (s : State) : Host.Outcome State Fault Refusal :=
  .next (s.storeBytes (s.ea 0) (s.blockBytes x))

/-- `load-block Vx` (R155). -/
def execLoadBlock (x : Reg) (s : State) : Host.Outcome State Fault Refusal :=
  .next (s.loadRegs (regsUpTo x))

end Sys2Proof.Machine
end

