-- ==== Sys2Proof/Machine/KeysTimers.lean ====
section
/-! DEFINITION. Key and timer instructions (rules R190 to R196). -/

namespace Sys2Proof.Machine

/-- `skip-if-key-down Vx` (R191). -/
def execSkipIfKeyDown (x : Reg) (s : State) : Host.Outcome State Fault Refusal :=
  .next (s.skipIf (s.keyDown (keyOf (s.reg x))))

/-- `skip-if-key-up Vx` (R192). -/
def execSkipIfKeyUp (x : Reg) (s : State) : Host.Outcome State Fault Refusal :=
  .next (s.skipIf (!s.keyDown (keyOf (s.reg x))))

/-- `read-delay-timer Vx` (R194): the value after this step's countdown. -/
def execReadDelayTimer (x : Reg) (s : State) : Host.Outcome State Fault Refusal :=
  .next (s.setReg x s.delay)

/-- `await-key Vx` (R193, R218): looks once; `pc` is already past it (log 11). -/
def execAwaitKey (x : Reg) (s : State) : Host.Outcome State Fault Refusal :=
  .next (s.lookForKey x)

/-- `set-delay-timer Vx` (R195). -/
def execSetDelayTimer (x : Reg) (s : State) : Host.Outcome State Fault Refusal :=
  .next (s.setDelay (s.reg x))

/-- `set-sound-timer Vx` (R196). -/
def execSetSoundTimer (x : Reg) (s : State) : Host.Outcome State Fault Refusal :=
  .next (s.setSound (s.reg x))

end Sys2Proof.Machine
end

