-- ==== Sys2Proof/Machine/Step.lean ====
section
/-! DEFINITION. One step of the engine (rule R68) and the placing of a word where it is fetched. -/

namespace Sys2Proof.Machine

/-- A step in mode RUN after the countdown: fetch, advance, decode, execute; an unrecognized word does nothing more (R66,
R68, R69). -/
def State.runStep (s : State) : Host.Outcome State Fault Refusal :=
  match decode s.fetch.ir with
  | .instr i => exec i s.fetch
  | .unrecognized _ => .next s.fetch

/-- One step, in full: (0) FAULT changes nothing (R213); (1) the inputs are sampled and `delay` counts down; then either the
pending await-key looks at the keys, or an instruction is fetched and executed (R68, R215, R218). -/
def step (s : State) : Host.Outcome State Fault Refusal :=
  match s.mode with
  | .fault => .next s
  | .awaitKey => .next s.beginStep.awaitStep
  | .run => s.beginStep.runStep

/-- `s` with the word numbered as the opcode table numbers it stored where the next step fetches it (log 19). -/
def State.withFetchWord (s : State) (nbits w : Nat) : State := s.placeWord (tableWord nbits w)

end Sys2Proof.Machine
end

