-- ==== Sys2Proof/Safety.lean ====
section
/-! DEFINITION. What counts as a good state, and the terms in which the statements say what an instruction leaves alone. -/

namespace Sys2Proof.Machine

/-- "A claim about a program should take mode ≠ FAULT as part of its postcondition" (R213). -/
def State.Safe (s : State) : Prop := s.mode ≠ .fault

/-- The invariant of the machine. -/
structure State.Inv (s : State) : Prop where
  /-- Memory is in its one canonical form (log 20). -/
  memory : Memory.wf s.mem
  /-- `fault_cause` is non-zero iff the mode is FAULT (R21, R224). -/
  cause : s.mode = .fault ↔ s.faultCause ≠ .none
  /-- While a key is awaited, `ir` still holds the `FX0A` word (R19). -/
  waiting : s.mode = .awaitKey → ∃ x, decode s.ir = .instr (.awaitKey x)
  /-- After a stack overflow `ir` is the faulting call and `sp` is still 16 (R212). -/
  overflow : s.faultCause = .stackOverflow → s.sp = 16 ∧ ∃ nnn, decode s.ir = .instr (.call nnn)
  /-- After a stack underflow `ir` is the faulting return and `sp` is still 0 (R212). -/
  underflow : s.faultCause = .stackUnderflow → s.sp = 0 ∧ decode s.ir = .instr .ret

/-- Every byte of memory reads as before. -/
def SameBytes (s t : State) : Prop := ∀ a, t.memRead a = s.memRead a

/-- From `s` to `t` nothing changed but general registers, and of those only the ones `P` names. -/
def OnlyRegs (P : Reg → Prop) (s t : State) : Prop :=
  (∀ r, ¬ P r → t.reg r = s.reg r) ∧ t = { s with V := t.V } ∧ SameBytes s t

/-- From `s` to `t` nothing changed but `pc`. -/
def OnlyPc (s t : State) : Prop := t = { s with pc := t.pc } ∧ SameBytes s t

/-- From `s` to `t` nothing changed but `I`. -/
def OnlyIndex (s t : State) : Prop := t = { s with I := t.I } ∧ SameBytes s t

/-- From `s` to `t` nothing changed but memory, and there only the `n` bytes at `base`, `base + 1`, ..., each address taken
modulo 4096 (R43). -/
def OnlyBytes (base n : Nat) (s t : State) : Prop :=
  t = { s with mem := t.mem } ∧ ∀ a, (∀ j, j < n → a % 4096 ≠ (base + j) % 4096) → t.memRead a = s.memRead a

/-- Column `px`, row `py` is covered by a set bit of the `n`-row sprite at `I`, drawn at column `a`, row `b` (R176). -/
def State.Covers (s : State) (a b : Byte) (n : Nat) (px : Fin 64) (py : Fin 32) : Prop :=
  ∃ r c : Nat, r < n ∧ c < 8 ∧ (s.memRead (s.I.toNat + r)).getLsbD (7 - c) = true ∧
    px.val = (a.toNat + c) % 64 ∧ py.val = (b.toNat + r) % 32

/-- `k` is the least key that is down in the sample (R193). -/
def IsLeastKey (keys : BitVec 16) (k : Key) : Prop :=
  keys.getLsbD k.val = true ∧ ∀ j : Key, j < k → keys.getLsbD j.val = false

/-- The countdown of one step, in integers: "If `delay > 0`, decrement it by 1" (R17, R217). -/
def countedDown (delay : Byte) : Byte := BitVec.ofNat 8 (delay.toNat - 1)

/-- In this step the engine fetches and executes the instruction `i` (R68). -/
def State.Runs (s : State) (i : Instr) : Prop :=
  s.mode = .run ∧ decode (s.memRead s.pc.toNat ++ s.memRead (s.pc.toNat + 1)) = .instr i

end Sys2Proof.Machine
end

