-- ==== Sys2Proof/Certificates/Slice0/Obligations.lean ====
section
/-! DEFINITION. The statements for the provers. Each docstring names the rule of spec/ it formalises; where a clause rests on
a choice (a decision D<n> of the spec, or a log entry of the model), it says so. -/

open Sys2Proof Sys2Proof.Machine

/-! ## Encoding -/

/-- R61: the operand fields sit at bits 15:12, 11:8, 7:4, 3:0, 7:0 and 11:0, and overlap as `kk = y :: n`,
`nnn = x :: y :: n`. -/
def Obligations.FieldsSitAtTheirBits : Prop :=
  ∀ w : Word,
    (∀ i, i < 4 → (opField w).getLsbD i = w.getLsbD (12 + i)) ∧
    (∀ i, i < 4 → (xField w).val.testBit i = w.getLsbD (8 + i)) ∧
    (∀ i, i < 4 → (yField w).val.testBit i = w.getLsbD (4 + i)) ∧
    (∀ i, i < 4 → (nField w).getLsbD i = w.getLsbD i) ∧
    (∀ i, i < 8 → (kkField w).getLsbD i = w.getLsbD i) ∧
    (∀ i, i < 12 → (nnnField w).getLsbD i = w.getLsbD i) ∧
    (kkField w).toNat = (yField w).val * 16 + (nField w).toNat ∧
    (nnnField w).toNat = (xField w).val * 256 + (yField w).val * 16 + (nField w).toNat

/-- R62, R65 (numbers D2, log 5): decoding the word of an instruction gives it back, every operand at every value. -/
def Obligations.DecodingAnEncodedInstruction : Prop :=
  ∀ i : Instr, decode (encode i) = .instr i

/-- R61, R65, R67 (numbers D2, log 5; ignored fields are carried, log 18): no bit of a recognized word is dropped. -/
def Obligations.EncodingADecodedWord : Prop :=
  ∀ (w : Word) (i : Instr), decode w = .instr i → encode i = w

/-- R65 (numbers D2, log 5): a word selects a row iff `w AND mask = match`; a row is named by its match, and the decoder
gives an instruction of that row. -/
def Obligations.WordSelectsItsRowByMask : Prop :=
  ∀ (w : Word) (j : Instr),
    w &&& j.rowMask = j.rowMatch ↔ ∃ i, decode w = .instr i ∧ i.rowMatch = j.rowMatch

/-- Words written out from R65 and from spec/95_test_vectors.md section 4 (numbers D2, log 5). -/
def Obligations.SampleWordsDecode : Prop :=
  decode 0x00E0 = .instr .clearScreen ∧ decode 0x00EE = .instr .ret ∧ decode 0x6005 = .instr (.loadImm 0 5) ∧
  decode 0x7003 = .instr (.addImm 0 3) ∧ decode 0x5001 = .instr (.skipEqReg 0 0 1) ∧
  decode 0x9ABF = .instr (.skipNeReg 0xA 0xB 0xF) ∧ decode 0x8AB6 = .instr (.shr 0xA 0xB) ∧
  decode 0xA2F0 = .instr (.loadIndex 0x2F0) ∧ decode 0xD125 = .instr (.drawSprite 1 2 5) ∧
  decode 0xE59E = .instr (.skipIfKeyDown 5) ∧ decode 0xF30A = .instr (.awaitKey 3) ∧
  decode 0x0000 = .unrecognized .zeroFamily ∧ decode 0x800F = .unrecognized .aluFamily ∧
  decode 0xE0A2 = .unrecognized .keyFamily ∧ decode 0xF066 = .unrecognized .miscFamily

/-- The words of the table of R66, in numbers. -/
def IsNoOpWord (w : Word) : Prop :=
  (w.toNat / 4096 = 0x0 ∧ w ≠ 0x00E0 ∧ w ≠ 0x00EE) ∨
  (w.toNat / 4096 = 0x8 ∧ w.toNat % 16 ∈ [0x8, 0x9, 0xA, 0xB, 0xC, 0xD, 0xF]) ∨
  (w.toNat / 4096 = 0xE ∧ w.toNat % 256 ∉ [0x9E, 0xA1]) ∨
  (w.toNat / 4096 = 0xF ∧ w.toNat % 256 ∉ [0x07, 0x0A, 0x15, 0x18, 0x1E, 0x29, 0x33, 0x55, 0x65])

/-- R66 (numbers D2, log 5): the unrecognized words are exactly those of the table, and a step that fetches one counts
`delay` down, takes the word into `ir`, advances `pc` by 2 and does nothing else. -/
def Obligations.UnrecognizedWordIsANoOp : Prop :=
  (∀ w : Word, IsNoOpWord w ↔ ∃ why, decode w = .unrecognized why) ∧
  ∀ s : State, s.mode = .run → IsNoOpWord (s.memRead s.pc.toNat ++ s.memRead (s.pc.toNat + 1)) →
    step s = .next { s.beginStep with
      ir := s.memRead s.pc.toNat ++ s.memRead (s.pc.toNat + 1), pc := s.pc + 2 }

/-- R67 (numbers D2, log 5; the carried fields, log 18): an instruction runs like its canonical form, which an assembler
would write, whatever its ignored fields hold. -/
def Obligations.IgnoredFieldsDoNotMatter : Prop :=
  ∀ (i : Instr) (s : State), i.canonical.wf = true ∧ exec i.canonical s = exec i s

/-! ## Reset -/

/-- R24, R240, R241 (D15 for I, delay, sound, stack, ir, mode; D11 for fault_cause; log 6, log 15): the table of values after
reset, for every FONT and every PROGRAM of at most 3584 bytes; the display and the inputs are not touched. -/
def Obligations.ResetGivesTheTable : Prop :=
  ∀ (font program : List Byte) (s : State), font.length = 80 → program.length ≤ 3584 →
    ∃ t, t = s.resetCore font program ∧
      (∀ r, t.reg r = 0) ∧ t.I = 0 ∧ t.pc = 0x0200 ∧ t.sp = 0 ∧ (∀ j : Fin 16, t.stack[j.val] = 0) ∧ t.delay = 0 ∧
      t.sound = 0 ∧ t.ir = 0 ∧ t.mode = .run ∧ t.faultCause = .none ∧
      (∀ a, a < 4096 → t.memRead a =
        if 0x050 ≤ a ∧ a < 0x0A0 then font.getD (a - 0x050) 0
        else if 0x200 ≤ a ∧ a < 0x200 + program.length then program.getD (a - 0x200) 0
        else 0) ∧
      t.fb = s.fb ∧ t.dispOut = s.dispOut ∧ t.keyIn = s.keyIn ∧ t.randIn = s.randIn ∧ t.inputs = s.inputs ∧
      t.tick = s.tick

/-- R24, R41, R42 (FONT from general knowledge, log 4; the representation, log 20): the state after reset is that reset with
the conventional FONT and no program, and glyph `d` stands at 0x050 + 5 d. -/
def Obligations.ResetStateHoldsTheFont : Prop :=
  State.reset.resetCore fontBytes [] = State.reset ∧
  ∀ d r : Nat, d < 16 → r < 5 → State.reset.memRead (0x050 + 5 * d + r) = ((glyphs.getD d []).getD r 0)

/-- The invariant holds after reset (R24). -/
def Obligations.InvariantHoldsAtReset : Prop := State.reset.Inv

/-- Every step keeps the invariant: memory stays canonical (log 20), `fault_cause` is non-zero iff the mode is FAULT (R21,
R224), a waiting engine holds the `FX0A` word in `ir` (R19), after a fault `ir` is the faulting word and `sp` still 16 or 0
(R212; D11, log 9). -/
def Obligations.EveryStepKeepsTheInvariant : Prop :=
  ∀ s t : State, s.Inv → step s = .next t → t.Inv

/-- R224 (D1): the outputs of the block. -/
def Obligations.OutputsFollowTheState : Prop :=
  ∀ s : State, s.Inv →
    s.soundOut = s.sound ∧ (s.faultOut ≠ 0 ↔ s.mode = .fault) ∧ (s.waitingOut = true ↔ s.mode = .awaitKey)

/-! ## The step -/

/-- R69, R68, R66 (addresses masked and `pc` kept whole, D10, log 7; the script of inputs in `beginStep`, log 1): in mode RUN
the step reads two bytes, forms `ir` big-endian and advances `pc` by 2, all before decode; what it decodes it executes, in that
state, and an unrecognized word leaves that state. What comes before the fetch is `beginStep`. -/
def Obligations.StepRunsTheFetchedWord : Prop :=
  ∀ s : State, s.mode = .run →
    (∀ i, decode (s.memRead s.pc.toNat ++ s.memRead (s.pc.toNat + 1)) = .instr i →
      step s = exec i { s.beginStep with
        ir := s.memRead s.pc.toNat ++ s.memRead (s.pc.toNat + 1), pc := s.pc + 2 }) ∧
    (∀ why, decode (s.memRead s.pc.toNat ++ s.memRead (s.pc.toNat + 1)) = .unrecognized why →
      step s = .next { s.beginStep with
        ir := s.memRead s.pc.toNat ++ s.memRead (s.pc.toNat + 1), pc := s.pc + 2 })

/-- R68, R190, R131 (D9, D18; the script and the free values, log 1): a step begins by sampling its inputs and counting `delay` down. -/
def Obligations.StepBeginsWithSampleAndCountdown : Prop :=
  ∀ s : State,
    (∀ p rest, s.inputs = p :: rest →
      s.beginStep = { s with
        keyIn := p.keys, randIn := p.rand, inputs := rest, tick := s.tick + 1, delay := countedDown s.delay }) ∧
    (s.inputs = [] →
      s.beginStep = { s with
        keyIn := Config.freeKeys s.tick, randIn := Config.freeRand s.tick, tick := s.tick + 1,
        delay := countedDown s.delay })

/-- The word placed for the next step is the word that step runs (log 19). -/
def Obligations.PlacedWordIsFetched : Prop :=
  ∀ (s : State) (w : Nat) (i : Instr), decode (BitVec.ofNat 16 w) = .instr i → (s.withFetchWord 16 w).Runs i

/-- R210: no instruction and no word is a failing operation: every step answers a next state. -/
def Obligations.EveryStepAnswersANextState : Prop :=
  (∀ (i : Instr) (s : State), ∃ t, exec i s = .next t) ∧ ∀ s : State, ∃ t, step s = .next t

/-- R213 (D12, log 9): FAULT is terminal, no number of steps changes anything, and reset leaves it. -/
def Obligations.FaultModeIsTerminal : Prop :=
  ∀ s : State, s.mode = .fault →
    (∀ k, Sys2Proof.core.run k s = .next s) ∧
    ∀ font program, (s.resetCore font program).mode = .run ∧ (s.resetCore font program).faultCause = .none

/-- R211, R212 (D11, log 9): a call at `sp = 16` and a return at `sp = 0` enter FAULT with their cause; the step's countdown
and `pc` advance stand, `ir` is the faulting word, and nothing else changed. -/
def Obligations.FaultEntryIsPrecise : Prop :=
  ∀ s : State,
    (∀ nnn, s.Runs (.call nnn) → s.sp = 16 →
      step s = .next { s.beginStep with
        ir := s.memRead s.pc.toNat ++ s.memRead (s.pc.toNat + 1), pc := s.pc + 2, mode := .fault,
        faultCause := .stackOverflow }) ∧
    (s.Runs .ret → s.sp = 0 →
      step s = .next { s.beginStep with
        ir := s.memRead s.pc.toNat ++ s.memRead (s.pc.toNat + 1), pc := s.pc + 2, mode := .fault,
        faultCause := .stackUnderflow })

/-- R211, R20 (D11, log 9): "These are the only causes": no other step enters FAULT. -/
def Obligations.OnlyTheStackBoundsFault : Prop :=
  ∀ s t : State, step s = .next t → s.mode ≠ .fault →
    (t.mode = .fault ↔ (∃ nnn, s.Runs (.call nnn) ∧ s.sp = 16) ∨ (s.Runs .ret ∧ s.sp = 0))

/-- R20, R218 (D6, D8, log 11): the engine waits after a step iff it was waiting or fetched an await-key, and no key is down
in that step's sample. -/
def Obligations.OnlyAwaitKeyWaits : Prop :=
  ∀ s t : State, step s = .next t →
    (t.mode = .awaitKey ↔ s.beginStep.keyIn = 0 ∧ (s.mode = .awaitKey ∨ ∃ x, s.Runs (.awaitKey x)))

/-- R218, R193 (level D6, lowest key D7, protocol D8, log 11): the four rows of the await-key state machine; and a sample
with any key down has a least one. -/
def Obligations.AwaitKeyStateMachine : Prop :=
  (∀ keys : BitVec 16, keys ≠ 0 → ∃ k, IsLeastKey keys k) ∧
  ∀ s : State,
    (∀ x, s.Runs (.awaitKey x) →
      (s.beginStep.keyIn = 0 → step s = .next { s.beginStep with
        ir := s.memRead s.pc.toNat ++ s.memRead (s.pc.toNat + 1), pc := s.pc + 2, mode := .awaitKey }) ∧
      ∀ k, IsLeastKey s.beginStep.keyIn k → step s = .next { s.beginStep.setReg x (BitVec.ofNat 8 k.val) with
        ir := s.memRead s.pc.toNat ++ s.memRead (s.pc.toNat + 1), pc := s.pc + 2 }) ∧
    (s.mode = .awaitKey →
      (s.beginStep.keyIn = 0 → step s = .next s.beginStep) ∧
      ∀ k, IsLeastKey s.beginStep.keyIn k →
        step s = .next { s.beginStep.setReg (xField s.ir) (BitVec.ofNat 8 k.val) with mode := .run })

/-- R218 (D6, D8, log 11; the script, log 1): a wait of any length changes only `delay`, once a step. -/
def Obligations.WaitingChangesOnlyDelay : Prop :=
  ∀ (k : Nat) (s : State), s.mode = .awaitKey → k ≤ s.inputs.length → (∀ p ∈ s.inputs.take k, p.keys = 0) →
    ∃ t : State, Sys2Proof.core.run k s = .next t ∧ t.delay.toNat = s.delay.toNat - k ∧
      t = { s with
        delay := t.delay, keyIn := t.keyIn, randIn := t.randIn, inputs := s.inputs.drop k, tick := s.tick + k }

/-- R245 (D19; the inputs, log 1): a jump to its own address is a fixed point of the step except for `ir` and for `delay` counting down. -/
def Obligations.SelfJumpStaysPut : Prop :=
  ∀ (k : Nat) (s : State) (nnn : Addr), s.Runs (.jump nnn) → nnn.toNat = s.pc.toNat →
    ∃ t : State, Sys2Proof.core.run k s = .next t ∧ t.Runs (.jump nnn) ∧ t.delay.toNat = s.delay.toNat - k ∧
      t = { s with
        delay := t.delay, ir := t.ir, keyIn := t.keyIn, randIn := t.randIn, inputs := t.inputs, tick := t.tick }

/-! ## What the whole machine never does -/

/-- R17, R194, R195, R217 (FAULT leaves `delay` alone, R213, D12, log 9): `delay` is written by set-delay-timer and by the countdown at the start of every step that is not in FAULT mode, and
read by read-delay-timer (after the countdown). -/
def Obligations.DelayCountsEveryStep : Prop :=
  ∀ s t : State, step s = .next t →
    (s.mode = .fault → t.delay = s.delay) ∧
    (s.mode ≠ .fault → (∀ x, ¬ s.Runs (.setDelayTimer x)) → t.delay.toNat = s.delay.toNat - 1) ∧
    (∀ x, s.Runs (.setDelayTimer x) → t.delay = s.reg x) ∧
    (∀ x, s.Runs (.readDelayTimer x) → (t.reg x).toNat = s.delay.toNat - 1)

/-- R18 (D5, log 10): `sound` changes by set-sound-timer only; nothing counts it down. -/
def Obligations.SoundChangesOnlyBySetSoundTimer : Prop :=
  ∀ s t : State, step s = .next t →
    (∀ x, s.Runs (.setSoundTimer x) → t.sound = s.reg x) ∧
    ((∀ x, ¬ s.Runs (.setSoundTimer x)) → t.sound = s.sound)

/-- R15, R16, R100, R102 (a call at `sp = 16` and a return at `sp = 0` leave the stack alone, R211, D11, log 9; `pc` kept whole,
R14, D10, log 7): only call pushes and only return pops; a push writes one slot, a popped slot keeps its contents, no other
instruction reaches the stack, and a push or pop is no memory access. -/
def Obligations.OnlyCallPushesAndOnlyReturnPops : Prop :=
  ∀ s t : State, step s = .next t →
    ((∀ nnn, ¬ s.Runs (.call nnn)) → t.stack = s.stack ∧ t.sp ≤ s.sp) ∧
    (¬ s.Runs .ret → s.sp ≤ t.sp) ∧
    (∀ nnn, s.Runs (.call nnn) → ∀ j : Fin 16, s.sp.val = j.val →
      t.stack[j.val] = s.pc + 2 ∧ t.sp.val = j.val + 1 ∧ t.mem = s.mem ∧
        ∀ k : Fin 16, k ≠ j → t.stack[k.val] = s.stack[k.val]) ∧
    (s.Runs .ret → ∀ j : Fin 16, s.sp.val = j.val + 1 →
      t.pc = s.stack[j.val] ∧ t.sp.val = j.val ∧ t.stack = s.stack ∧ t.mem = s.mem)

/-- R12, R156: `I` changes by load-index, add-to-index and load-font-address only, never by a memory access. -/
def Obligations.IndexChangesOnlyByIndexInstructions : Prop :=
  ∀ s t : State, step s = .next t →
    (∀ nnn, ¬ s.Runs (.loadIndex nnn)) → (∀ x, ¬ s.Runs (.addToIndex x)) → (∀ x, ¬ s.Runs (.loadFontAddress x)) →
    t.I = s.I

/-- R47, R23: no instruction but store-bcd and store-block writes memory, in any byte. -/
def Obligations.MemoryChangesOnlyByTheTwoStores : Prop :=
  ∀ s t : State, step s = .next t →
    (∀ x, ¬ s.Runs (.storeBcd x)) → (∀ x, ¬ s.Runs (.storeBlock x)) → t.mem = s.mem ∧ SameBytes s t

/-- R23, R175, R176: no instruction but clear-screen and draw-sprite touches the display or issues a command. -/
def Obligations.DisplayChangesOnlyByDisplayInstructions : Prop :=
  ∀ s t : State, step s = .next t →
    ¬ s.Runs .clearScreen → (∀ x y n, ¬ s.Runs (.drawSprite x y n)) → t.fb = s.fb ∧ t.dispOut = s.dispOut

/-- The registers an instruction may write: the table of R10 and R11 (`write V[x]`, `write V[0..x]`, `write VF (implicit)`). -/
def MayWrite (i : Instr) (r : Reg) : Prop :=
  match i with
  | .loadImm x _ | .addImm x _ | .loadReg x _ | .or x _ | .and x _ | .xor x _ | .randomAnd x _ | .readDelayTimer x
  | .awaitKey x => r = x
  | .addReg x _ | .subReg x _ | .shr x _ | .subnReg x _ | .shl x _ => r = x ∨ r = 15
  | .drawSprite _ _ _ => r = 15
  | .loadBlock x => r ≤ x
  | .clearScreen | .ret | .jump _ | .call _ | .skipEqImm _ _ | .skipNeImm _ _ | .skipEqReg _ _ _ | .skipNeReg _ _ _
  | .loadIndex _ | .jumpOffset _ | .skipIfKeyDown _ | .skipIfKeyUp _ | .setDelayTimer _ | .setSoundTimer _
  | .addToIndex _ | .loadFontAddress _ | .storeBcd _ | .storeBlock _ => False

/-- R10, R11, R27: a general register changes only by an instruction whose row of the table writes it (VF implicitly by six
instructions only), or by the key that ends a wait (R218, D8, log 11). -/
def Obligations.RegistersChangeOnlyAsTheTableSays : Prop :=
  ∀ (s t : State) (r : Reg), step s = .next t → (∀ i, s.Runs i → ¬ MayWrite i r) →
    (s.mode = .awaitKey → r ≠ xField s.ir) → t.reg r = s.reg r

/-- The instructions that set `pc` beyond the fetch advance (R14). -/
def MovesPc : Instr → Bool
  | .ret | .jump _ | .call _ | .jumpOffset _ | .skipEqImm _ _ | .skipNeImm _ _ | .skipEqReg _ _ _ | .skipNeReg _ _ _
  | .skipIfKeyDown _ | .skipIfKeyUp _ => true
  | .clearScreen | .loadImm _ _ | .addImm _ _ | .loadReg _ _ | .or _ _ | .and _ _ | .xor _ _ | .addReg _ _ | .subReg _ _
  | .shr _ _ | .subnReg _ _ | .shl _ _ | .loadIndex _ | .randomAnd _ _ | .drawSprite _ _ _ | .readDelayTimer _ | .awaitKey _
  | .setDelayTimer _ | .setSoundTimer _ | .addToIndex _ | .loadFontAddress _ | .storeBcd _ | .storeBlock _
  | .loadBlock _ => false

/-- R14 (16 bits kept, D10, log 7): the table of how `pc` is left, but for the targets: `p + 2` after every instruction that
is no transfer and after every unrecognized word, `p + 2` or `p + 4` after a skip, `p` in AWAIT_KEY and FAULT. -/
def Obligations.OnlyTransfersAndSkipsMovePc : Prop :=
  ∀ s t : State, step s = .next t →
    (s.mode ≠ .run → t.pc = s.pc) ∧
    (s.mode = .run → (∀ i, s.Runs i → MovesPc i = false) → t.pc = s.pc + 2) ∧
    (∀ i, s.Runs i → MovesPc i = true →
      t.pc = s.pc + 2 ∨ t.pc = s.pc + 4 ∨ i = .ret ∨ ∃ nnn, i = .jump nnn ∨ i = .call nnn ∨ i = .jumpOffset nnn)

/-- The instructions that look at the inputs of the step (R131, R191 to R193). -/
def ReadsInputs : Instr → Bool
  | .randomAnd _ _ | .skipIfKeyDown _ | .skipIfKeyUp _ | .awaitKey _ => true
  | .clearScreen | .ret | .jump _ | .call _ | .skipEqImm _ _ | .skipNeImm _ _ | .skipEqReg _ _ _ | .loadImm _ _
  | .addImm _ _ | .loadReg _ _ | .or _ _ | .and _ _ | .xor _ _ | .addReg _ _ | .subReg _ _ | .shr _ _ | .subnReg _ _
  | .shl _ _ | .skipNeReg _ _ _ | .loadIndex _ | .jumpOffset _ | .drawSprite _ _ _ | .readDelayTimer _ | .setDelayTimer _
  | .setSoundTimer _ | .addToIndex _ | .loadFontAddress _ | .storeBcd _ | .storeBlock _ | .loadBlock _ => false

/-- R4, R131, R190 to R193, R222 (log 1): what the keys and the random byte are reaches no instruction but the four that read
them: two runs that differ in the inputs differ in nothing else afterwards. -/
def Obligations.InputsReachOnlyTheirReaders : Prop :=
  ∀ (i : Instr) (s t : State) (keys : BitVec 16) (rand : Byte), ReadsInputs i = false → exec i s = .next t →
    exec i { s with keyIn := keys, randIn := rand } = .next { t with keyIn := keys, randIn := rand }

/-! ## Control transfer -/

/-- R100, R109 (underflow D11, log 9): return pops the newest address whole; with nothing held it faults. -/
def Obligations.ReturnPopsItsAddress : Prop :=
  ∀ s : State,
    (∀ j : Fin 16, s.sp.val = j.val + 1 → ∃ t, exec .ret s = .next t ∧ t.pc = s.stack[j.val] ∧ t.sp.val = j.val ∧
      t = { s with pc := t.pc, sp := t.sp } ∧ SameBytes s t) ∧
    (s.sp = 0 → exec .ret s = .next { s with mode := .fault, faultCause := .stackUnderflow })

/-- R102, R109 (overflow D11, log 9): call pushes the 16-bit `pc` and goes to `nnn`; with sixteen held it faults. -/
def Obligations.CallPushesAndJumps : Prop :=
  ∀ (nnn : Addr) (s : State),
    (∀ j : Fin 16, s.sp.val = j.val → ∃ t, exec (.call nnn) s = .next t ∧ t.stack[j.val] = s.pc ∧
      (∀ k : Fin 16, k ≠ j → t.stack[k.val] = s.stack[k.val]) ∧ t.sp.val = j.val + 1 ∧ t.pc.toNat = nnn.toNat ∧
      t = { s with pc := t.pc, sp := t.sp, stack := t.stack } ∧ SameBytes s t) ∧
    (s.sp = 16 → exec (.call nnn) s = .next { s with mode := .fault, faultCause := .stackOverflow })

/-- R101, R107, R109 (16 bits kept, D10, log 7): jump goes to `nnn`, jump-offset to `V0 + nnn`, unreduced. -/
def Obligations.JumpTargets : Prop :=
  ∀ (nnn : Addr) (s : State),
    (∃ t, exec (.jump nnn) s = .next t ∧ t.pc.toNat = nnn.toNat ∧ OnlyPc s t) ∧
    (∃ t, exec (.jumpOffset nnn) s = .next t ∧ t.pc.toNat = (s.reg 0).toNat + nnn.toNat ∧ OnlyPc s t)

/-- R103 to R106, R108, R191, R192 (`pc` kept whole and wrapping at 65536, R14, D10, log 7; key numbers above 15 are left to
`KeySkipsUseTheLowFourBits`): a skip whose condition holds adds 2 to `pc`, one whose condition fails has no effect: equality or inequality of
unsigned bytes, or the state of a key 0..15. -/
def Obligations.SkipsMovePastOneInstruction : Prop :=
  ∀ (x y : Reg) (kk : Byte) (ign : Nibble) (s : State),
    (∃ t, exec (.skipEqImm x kk) s = .next t ∧ t.pc = (if s.reg x = kk then s.pc + 2 else s.pc) ∧ OnlyPc s t) ∧
    (∃ t, exec (.skipNeImm x kk) s = .next t ∧ t.pc = (if s.reg x = kk then s.pc else s.pc + 2) ∧ OnlyPc s t) ∧
    (∃ t, exec (.skipEqReg x y ign) s = .next t ∧ t.pc = (if s.reg x = s.reg y then s.pc + 2 else s.pc) ∧ OnlyPc s t) ∧
    (∃ t, exec (.skipNeReg x y ign) s = .next t ∧ t.pc = (if s.reg x = s.reg y then s.pc else s.pc + 2) ∧ OnlyPc s t) ∧
    ((s.reg x).toNat < 16 →
      (∃ t, exec (.skipIfKeyDown x) s = .next t ∧ OnlyPc s t ∧
        t.pc = (if s.keyIn.getLsbD (s.reg x).toNat = true then s.pc + 2 else s.pc)) ∧
      (∃ t, exec (.skipIfKeyUp x) s = .next t ∧ OnlyPc s t ∧
        t.pc = (if s.keyIn.getLsbD (s.reg x).toNat = true then s.pc else s.pc + 2)))

/-- R100, R102, source §8 (S7) (`pc` kept whole, D10, log 7): whatever ran between, a return that finds the stack as the call left it goes to the
instruction after the call, at every depth up to 16. -/
def Obligations.ReturnUndoesCall : Prop :=
  ∀ (nnn : Addr) (s : State), s.sp.val < 16 →
    ∃ t, exec (.call nnn) s = .next t ∧
      ∀ u : State, u.stack = t.stack → u.sp = t.sp → ∃ v, exec .ret u = .next v ∧ v.pc = s.pc ∧ v.sp = s.sp

/-! ## Load, arithmetic, logic -/

/-- R120, R121: load-imm and add-imm, with the encodings `6XKK` and `7XKK` that the source prints. -/
def Obligations.LoadImmAndAddImm : Prop :=
  (∀ w : Word, w &&& 0xF000 = 0x6000 → decode w = .instr (.loadImm (xField w) (kkField w))) ∧
  (∀ w : Word, w &&& 0xF000 = 0x7000 → decode w = .instr (.addImm (xField w) (kkField w))) ∧
  ∀ (x : Reg) (kk : Byte) (s : State),
    (∃ t, exec (.loadImm x kk) s = .next t ∧ t.reg x = kk ∧ OnlyRegs (· = x) s t) ∧
    (∃ t, exec (.addImm x kk) s = .next t ∧ (t.reg x).toNat = ((s.reg x).toNat + kk.toNat) % 256 ∧ OnlyRegs (· = x) s t)

/-- R122 to R125 (encodings D2, not stated here): copy, OR, AND, XOR, bit by bit; VF is not written. -/
def Obligations.CopyAndLogic : Prop :=
  ∀ (x y : Reg) (s : State),
    (∃ t, exec (.loadReg x y) s = .next t ∧ t.reg x = s.reg y ∧ OnlyRegs (· = x) s t) ∧
    (∃ t, exec (.or x y) s = .next t ∧ OnlyRegs (· = x) s t ∧
      ∀ i, (t.reg x).getLsbD i = ((s.reg x).getLsbD i || (s.reg y).getLsbD i)) ∧
    (∃ t, exec (.and x y) s = .next t ∧ OnlyRegs (· = x) s t ∧
      ∀ i, (t.reg x).getLsbD i = ((s.reg x).getLsbD i && (s.reg y).getLsbD i)) ∧
    (∃ t, exec (.xor x y) s = .next t ∧ OnlyRegs (· = x) s t ∧
      ∀ i, (t.reg x).getLsbD i = ((s.reg x).getLsbD i ^^ (s.reg y).getLsbD i))

/-- `i` completes on `s` with `result` in register `x` and, unless `x` is VF, `flag` in VF; nothing else changes. -/
def Yields (i : Instr) (s : State) (x : Reg) (result flag : Nat) : Prop :=
  ∃ t, exec i s = .next t ∧ (t.reg x).toNat = result ∧ (x ≠ 15 → (t.reg 15).toNat = flag) ∧
    OnlyRegs (fun r => r = x ∨ r = 15) s t

/-- R132, R133, R70 (latching and write order D4, log 8; the Y field of the shifts is ignored, R67): the exact results and
flags for every X and Y. Operands are latched, the flag is written first and the result second: with X = 15 the result stands,
with Y = 15 the old VF is the operand. Equal operands of a subtraction give result 0 and VF 0. -/
def Obligations.ExactResultsAndFlags : Prop :=
  ∀ (x y : Reg) (kk : Byte) (s : State) (a b : Nat), a = (s.reg x).toNat → b = (s.reg y).toNat →
    Yields (.addImm x kk) s x ((a + kk.toNat) % 256) (s.reg 15).toNat ∧
    Yields (.addReg x y) s x ((a + b) % 256) (if a + b > 255 then 1 else 0) ∧
    Yields (.subReg x y) s x (if a ≥ b then a - b else a + 256 - b) (if a > b then 1 else 0) ∧
    Yields (.subnReg x y) s x (if b ≥ a then b - a else b + 256 - a) (if b > a then 1 else 0) ∧
    Yields (.shr x y) s x (a / 2) (a % 2) ∧
    Yields (.shl x y) s x (2 * a % 256) (a / 128)

/-- R131 (D9; encoding D2 not stated here): random-and gives the step's random byte AND `kk`, whatever that byte is. -/
def Obligations.RandomAndMasksTheInput : Prop :=
  ∀ (x : Reg) (kk : Byte) (s : State),
    ∃ t, exec (.randomAnd x kk) s = .next t ∧ OnlyRegs (· = x) s t ∧
      ∀ i, (t.reg x).getLsbD i = (s.randIn.getLsbD i && kk.getLsbD i)

/-! ## Index register and memory -/

/-- R150 to R152 (16-bit wrap derived in R12, log 7; encodings D2 not stated here): the three writers of `I`; VF is not
written. -/
def Obligations.IndexInstructions : Prop :=
  ∀ (nnn : Addr) (x : Reg) (s : State),
    (∃ t, exec (.loadIndex nnn) s = .next t ∧ t.I.toNat = nnn.toNat ∧ OnlyIndex s t) ∧
    (∃ t, exec (.addToIndex x) s = .next t ∧ t.I.toNat = (s.I.toNat + (s.reg x).toNat) % 65536 ∧ OnlyIndex s t) ∧
    (∃ t, exec (.loadFontAddress x) s = .next t ∧ t.I.toNat = 0x050 + 5 * (s.reg x).toNat ∧ OnlyIndex s t)

/-- R153, R156 (masking D10, log 7; no protection D14, log 13): hundreds, tens and ones at I, I + 1, I + 2, and no other byte. -/
def Obligations.StoreBcdWritesThreeDigits : Prop :=
  ∀ (x : Reg) (s : State), ∃ t, exec (.storeBcd x) s = .next t ∧
    (t.memRead s.I.toNat).toNat = (s.reg x).toNat / 100 ∧
    (t.memRead (s.I.toNat + 1)).toNat = (s.reg x).toNat / 10 % 10 ∧
    (t.memRead (s.I.toNat + 2)).toNat = (s.reg x).toNat % 10 ∧
    OnlyBytes s.I.toNat 3 s t

/-- R154, R156 (masking D10, log 7; no protection D14, log 13): V0 to VX at I, I + 1, ..., and no other byte. -/
def Obligations.StoreBlockWritesVZeroToVX : Prop :=
  ∀ (x : Reg) (s : State), ∃ t, exec (.storeBlock x) s = .next t ∧
    (∀ i : Reg, i ≤ x → t.memRead (s.I.toNat + i.val) = s.reg i) ∧ OnlyBytes s.I.toNat (x.val + 1) s t

/-- R155, R156 (masking D10, log 7): V0 to VX from I, I + 1, ..., every address from the `I` at the start. -/
def Obligations.LoadBlockReadsVZeroToVX : Prop :=
  ∀ (x : Reg) (s : State), ∃ t, exec (.loadBlock x) s = .next t ∧
    (∀ i : Reg, i ≤ x → t.reg i = s.memRead (s.I.toNat + i.val)) ∧ OnlyRegs (· ≤ x) s t

/-- R154, R155, R51, source §8 (S5) (masking D10, log 7): store-block followed by load-block with the same X and I restores the registers,
whatever became of them in between. -/
def Obligations.LoadBlockUndoesStoreBlock : Prop :=
  ∀ (x : Reg) (s : State), ∃ t, exec (.storeBlock x) s = .next t ∧
    ∀ u : State, u.mem = t.mem → u.I = t.I → ∃ v, exec (.loadBlock x) u = .next v ∧ ∀ i : Reg, i ≤ x → v.reg i = s.reg i

/-- R53 (derived there; masking D10, log 7): an instruction stored where `pc` goes next is the one the very next step runs. -/
def Obligations.StoredInstructionRunsNext : Prop :=
  ∀ (s : State) (x : Reg) (i : Instr), s.Runs (.storeBlock x) → 1 ≤ x.val →
    s.I.toNat % 4096 = (s.pc.toNat + 2) % 4096 → decode (s.reg 0 ++ s.reg 1) = .instr i →
    ∃ t, step s = .next t ∧ t.Runs i

/-! ## Display -/

/-- R173, R175 (one clear command that includes its render, C10, log 14): every pixel off, one render, VF and everything else
as it was. -/
def Obligations.ClearScreenTurnsEveryPixelOff : Prop :=
  ∀ s : State, ∃ t, exec .clearScreen s = .next t ∧ (∀ x y, t.pixel x y = false) ∧
    renders t.dispOut = renders s.dispOut + 1 ∧
    t = { s with fb := t.fb, dispOut := s.dispOut ++ [.clear] } ∧ SameBytes s t

/-- R176 (column, row and bit order D20, log 14; old VF as a coordinate D4, log 8; output trace, log 14): each covered pixel
is toggled and no other, VF is 1 iff a covered pixel was on, one render at the end, everything else as it was. -/
def Obligations.DrawSpriteTogglesAndReportsCollision : Prop :=
  ∀ (x y : Reg) (n : Nibble) (s : State), ∃ t, exec (.drawSprite x y n) s = .next t ∧
    (∀ px py, s.Covers (s.reg x) (s.reg y) n.toNat px py → t.pixel px py = !s.pixel px py) ∧
    (∀ px py, ¬ s.Covers (s.reg x) (s.reg y) n.toNat px py → t.pixel px py = s.pixel px py) ∧
    ((∃ px py, s.Covers (s.reg x) (s.reg y) n.toNat px py ∧ s.pixel px py = true) → t.reg 15 = 1) ∧
    ((∀ px py, s.Covers (s.reg x) (s.reg y) n.toNat px py → s.pixel px py = false) → t.reg 15 = 0) ∧
    (∀ r : Reg, r ≠ 15 → t.reg r = s.reg r) ∧
    (∃ cs, t.dispOut = s.dispOut ++ cs ++ [.render] ∧ renders cs = 0) ∧
    t = { s with V := t.V, fb := t.fb, dispOut := t.dispOut } ∧ SameBytes s t

/-- R176, source §8 (S8): drawing the same sprite twice at the same place returns the display to its state before; over a
clear region the second draw sets VF exactly when the sprite has a set bit. -/
def Obligations.DrawingTwiceRestoresTheDisplay : Prop :=
  ∀ (x y : Reg) (n : Nibble) (s : State), x ≠ 15 → y ≠ 15 →
    ∃ t u, exec (.drawSprite x y n) s = .next t ∧ exec (.drawSprite x y n) t = .next u ∧ u.fb = s.fb ∧
      ((∀ px py, s.Covers (s.reg x) (s.reg y) n.toNat px py → s.pixel px py = false) →
        (u.reg 15 = 1 ↔ ∃ r c, r < n.toNat ∧ c < 8 ∧ (s.memRead (s.I.toNat + r)).getLsbD (7 - c) = true))

/-! ## Keys and timers -/

/-- R191, R192 (low four bits D13, log 12): for one sample exactly one of the two key skips skips, by the key `V[x] mod 16`. -/
def Obligations.KeySkipsUseTheLowFourBits : Prop :=
  ∀ (x : Reg) (s : State),
    (∃ t, exec (.skipIfKeyDown x) s = .next t ∧ OnlyPc s t ∧
      t.pc = (if s.keyIn.getLsbD ((s.reg x).toNat % 16) = true then s.pc + 2 else s.pc)) ∧
    (∃ t, exec (.skipIfKeyUp x) s = .next t ∧ OnlyPc s t ∧
      t.pc = (if s.keyIn.getLsbD ((s.reg x).toNat % 16) = true then s.pc else s.pc + 2))

/-- R193 (level D6, lowest key D7, log 11): the look at the keys in the step that fetched the instruction. -/
def Obligations.AwaitKeyLooksOnce : Prop :=
  ∀ (x : Reg) (s : State), s.mode = .run →
    (s.keyIn = 0 → exec (.awaitKey x) s = .next { s with mode := .awaitKey }) ∧
    (∀ k, IsLeastKey s.keyIn k →
      ∃ t, exec (.awaitKey x) s = .next t ∧ (t.reg x).toNat = k.val ∧ OnlyRegs (· = x) s t)

/-- R194 to R196 (encodings D2 not stated here): the three timer instructions, on the state after the step's countdown. -/
def Obligations.TimerInstructions : Prop :=
  ∀ (x : Reg) (s : State),
    (∃ t, exec (.readDelayTimer x) s = .next t ∧ t.reg x = s.delay ∧ OnlyRegs (· = x) s t) ∧
    (∃ t, exec (.setDelayTimer x) s = .next t ∧ t = { s with delay := s.reg x } ∧ SameBytes s t) ∧
    (∃ t, exec (.setSoundTimer x) s = .next t ∧ t = { s with sound := s.reg x } ∧ SameBytes s t)
end

