-- ==== Sys2Proof/Laws/Decode.lean ====
section
/-! SUPPORT. The fields of an assembled word (R61, R62): each encoder gives back what was put in. -/

namespace Sys2Proof.Laws

theorem toNat_append {m n : Nat} (a : BitVec m) (b : BitVec n) : (a ++ b).toNat = a.toNat * 2 ^ n + b.toNat := by
  rw [BitVec.toNat_append, Nat.shiftLeft_eq, Nat.mul_comm, Nat.two_pow_add_eq_or_of_lt b.isLt]

theorem encodeA_toNat (op : Nibble) (nnn : Addr) : (encodeA op nnn).toNat = op.toNat * 4096 + nnn.toNat :=
  toNat_append op nnn

theorem encodeXK_toNat (op : Nibble) (x : Reg) (kk : Byte) :
    (encodeXK op x kk).toNat = op.toNat * 4096 + x.val * 256 + kk.toNat := by
  have h : (encodeXK op x kk).toNat = (op.toNat * 2 ^ 4 + x.val) * 2 ^ 8 + kk.toNat := by
    rw [encodeXK, toNat_append, toNat_append]; rfl
  rw [h]; ring

theorem encodeXYN_toNat (op : Nibble) (x y : Reg) (n : Nibble) :
    (encodeXYN op x y n).toNat = op.toNat * 4096 + x.val * 256 + y.val * 16 + n.toNat := by
  have h : (encodeXYN op x y n).toNat = ((op.toNat * 2 ^ 4 + x.val) * 2 ^ 4 + y.val) * 2 ^ 4 + n.toNat := by
    rw [encodeXYN, toNat_append, toNat_append, toNat_append]; rfl
  rw [h]; ring

/-! The fields as numbers (R61). -/

theorem opField_toNat (w : Word) : (opField w).toNat = w.toNat / 4096 % 16 := by
  simp [opField, BitVec.extractLsb'_toNat, Nat.shiftRight_eq_div_pow]
theorem xField_val (w : Word) : (xField w).val = w.toNat / 256 % 16 := by
  simp [xField, Nat.shiftRight_eq_div_pow]
theorem yField_val (w : Word) : (yField w).val = w.toNat / 16 % 16 := by
  simp [yField, Nat.shiftRight_eq_div_pow]
theorem nField_toNat (w : Word) : (nField w).toNat = w.toNat % 16 := by
  simp [nField, BitVec.extractLsb'_toNat]
theorem kkField_toNat (w : Word) : (kkField w).toNat = w.toNat % 256 := by
  simp [kkField, BitVec.extractLsb'_toNat]
theorem nnnField_toNat (w : Word) : (nnnField w).toNat = w.toNat % 4096 := by
  simp [nnnField, BitVec.extractLsb'_toNat]

/-! Format A. -/

@[simp] theorem opField_encodeA (op : Nibble) (nnn : Addr) : opField (encodeA op nnn) = op := by
  apply BitVec.eq_of_toNat_eq; rw [opField_toNat, encodeA_toNat]; omega
@[simp] theorem nnnField_encodeA (op : Nibble) (nnn : Addr) : nnnField (encodeA op nnn) = nnn := by
  apply BitVec.eq_of_toNat_eq; rw [nnnField_toNat, encodeA_toNat]; omega

/-! Formats XK and XF. -/

@[simp] theorem opField_encodeXK (op : Nibble) (x : Reg) (kk : Byte) : opField (encodeXK op x kk) = op := by
  apply BitVec.eq_of_toNat_eq; rw [opField_toNat, encodeXK_toNat]; omega
@[simp] theorem xField_encodeXK (op : Nibble) (x : Reg) (kk : Byte) : xField (encodeXK op x kk) = x := by
  apply Fin.ext; rw [xField_val, encodeXK_toNat]; omega
@[simp] theorem kkField_encodeXK (op : Nibble) (x : Reg) (kk : Byte) : kkField (encodeXK op x kk) = kk := by
  apply BitVec.eq_of_toNat_eq; rw [kkField_toNat, encodeXK_toNat]; omega

/-! Formats XY, XYF and XYN. -/

@[simp] theorem opField_encodeXYN (op : Nibble) (x y : Reg) (n : Nibble) : opField (encodeXYN op x y n) = op := by
  apply BitVec.eq_of_toNat_eq; rw [opField_toNat, encodeXYN_toNat]; omega
@[simp] theorem xField_encodeXYN (op : Nibble) (x y : Reg) (n : Nibble) : xField (encodeXYN op x y n) = x := by
  apply Fin.ext; rw [xField_val, encodeXYN_toNat]; omega
@[simp] theorem yField_encodeXYN (op : Nibble) (x y : Reg) (n : Nibble) : yField (encodeXYN op x y n) = y := by
  apply Fin.ext; rw [yField_val, encodeXYN_toNat]; omega
@[simp] theorem nField_encodeXYN (op : Nibble) (x y : Reg) (n : Nibble) : nField (encodeXYN op x y n) = n := by
  apply BitVec.eq_of_toNat_eq; rw [nField_toNat, encodeXYN_toNat]; omega

/-- A word from its two bytes: the halves are the bytes (R45). -/
theorem hiByte_append_loByte (w : Word) : (hiByte w ++ loByte w : BitVec (8 + 8)) = w := by
  apply BitVec.eq_of_toNat_eq
  rw [toNat_append]
  simp only [hiByte, loByte, BitVec.extractLsb'_toNat, Nat.shiftRight_eq_div_pow]
  omega

end Sys2Proof.Laws
end

