-- ==== Sys2Proof/Laws/State.lean ====
section
/-! SUPPORT. One lemma per field per update, so that no later proof unfolds a record update. -/

namespace Sys2Proof.Machine.Laws

variable (s : State)

/-! `State.setReg` -/

@[simp] theorem setReg_V (x : Reg) (v : Byte) : (s.setReg x v).V = s.V.set x.val v := rfl
@[simp] theorem setReg_I (x : Reg) (v : Byte) : (s.setReg x v).I = s.I := rfl
@[simp] theorem setReg_pc (x : Reg) (v : Byte) : (s.setReg x v).pc = s.pc := rfl
@[simp] theorem setReg_mem (x : Reg) (v : Byte) : (s.setReg x v).mem = s.mem := rfl
@[simp] theorem setReg_stack (x : Reg) (v : Byte) : (s.setReg x v).stack = s.stack := rfl
@[simp] theorem setReg_sp (x : Reg) (v : Byte) : (s.setReg x v).sp = s.sp := rfl
@[simp] theorem setReg_delay (x : Reg) (v : Byte) : (s.setReg x v).delay = s.delay := rfl
@[simp] theorem setReg_sound (x : Reg) (v : Byte) : (s.setReg x v).sound = s.sound := rfl
@[simp] theorem setReg_ir (x : Reg) (v : Byte) : (s.setReg x v).ir = s.ir := rfl
@[simp] theorem setReg_mode (x : Reg) (v : Byte) : (s.setReg x v).mode = s.mode := rfl
@[simp] theorem setReg_faultCause (x : Reg) (v : Byte) : (s.setReg x v).faultCause = s.faultCause := rfl
@[simp] theorem setReg_fb (x : Reg) (v : Byte) : (s.setReg x v).fb = s.fb := rfl
@[simp] theorem setReg_dispOut (x : Reg) (v : Byte) : (s.setReg x v).dispOut = s.dispOut := rfl
@[simp] theorem setReg_keyIn (x : Reg) (v : Byte) : (s.setReg x v).keyIn = s.keyIn := rfl
@[simp] theorem setReg_randIn (x : Reg) (v : Byte) : (s.setReg x v).randIn = s.randIn := rfl
@[simp] theorem setReg_inputs (x : Reg) (v : Byte) : (s.setReg x v).inputs = s.inputs := rfl
@[simp] theorem setReg_tick (x : Reg) (v : Byte) : (s.setReg x v).tick = s.tick := rfl

/-! `State.setI` -/

@[simp] theorem setI_V (v : Word) : (s.setI v).V = s.V := rfl
@[simp] theorem setI_I (v : Word) : (s.setI v).I = v := rfl
@[simp] theorem setI_pc (v : Word) : (s.setI v).pc = s.pc := rfl
@[simp] theorem setI_mem (v : Word) : (s.setI v).mem = s.mem := rfl
@[simp] theorem setI_stack (v : Word) : (s.setI v).stack = s.stack := rfl
@[simp] theorem setI_sp (v : Word) : (s.setI v).sp = s.sp := rfl
@[simp] theorem setI_delay (v : Word) : (s.setI v).delay = s.delay := rfl
@[simp] theorem setI_sound (v : Word) : (s.setI v).sound = s.sound := rfl
@[simp] theorem setI_ir (v : Word) : (s.setI v).ir = s.ir := rfl
@[simp] theorem setI_mode (v : Word) : (s.setI v).mode = s.mode := rfl
@[simp] theorem setI_faultCause (v : Word) : (s.setI v).faultCause = s.faultCause := rfl
@[simp] theorem setI_fb (v : Word) : (s.setI v).fb = s.fb := rfl
@[simp] theorem setI_dispOut (v : Word) : (s.setI v).dispOut = s.dispOut := rfl
@[simp] theorem setI_keyIn (v : Word) : (s.setI v).keyIn = s.keyIn := rfl
@[simp] theorem setI_randIn (v : Word) : (s.setI v).randIn = s.randIn := rfl
@[simp] theorem setI_inputs (v : Word) : (s.setI v).inputs = s.inputs := rfl
@[simp] theorem setI_tick (v : Word) : (s.setI v).tick = s.tick := rfl

/-! `State.setPc` -/

@[simp] theorem setPc_V (v : Word) : (s.setPc v).V = s.V := rfl
@[simp] theorem setPc_I (v : Word) : (s.setPc v).I = s.I := rfl
@[simp] theorem setPc_pc (v : Word) : (s.setPc v).pc = v := rfl
@[simp] theorem setPc_mem (v : Word) : (s.setPc v).mem = s.mem := rfl
@[simp] theorem setPc_stack (v : Word) : (s.setPc v).stack = s.stack := rfl
@[simp] theorem setPc_sp (v : Word) : (s.setPc v).sp = s.sp := rfl
@[simp] theorem setPc_delay (v : Word) : (s.setPc v).delay = s.delay := rfl
@[simp] theorem setPc_sound (v : Word) : (s.setPc v).sound = s.sound := rfl
@[simp] theorem setPc_ir (v : Word) : (s.setPc v).ir = s.ir := rfl
@[simp] theorem setPc_mode (v : Word) : (s.setPc v).mode = s.mode := rfl
@[simp] theorem setPc_faultCause (v : Word) : (s.setPc v).faultCause = s.faultCause := rfl
@[simp] theorem setPc_fb (v : Word) : (s.setPc v).fb = s.fb := rfl
@[simp] theorem setPc_dispOut (v : Word) : (s.setPc v).dispOut = s.dispOut := rfl
@[simp] theorem setPc_keyIn (v : Word) : (s.setPc v).keyIn = s.keyIn := rfl
@[simp] theorem setPc_randIn (v : Word) : (s.setPc v).randIn = s.randIn := rfl
@[simp] theorem setPc_inputs (v : Word) : (s.setPc v).inputs = s.inputs := rfl
@[simp] theorem setPc_tick (v : Word) : (s.setPc v).tick = s.tick := rfl

/-! `State.setDelay` -/

@[simp] theorem setDelay_V (v : Byte) : (s.setDelay v).V = s.V := rfl
@[simp] theorem setDelay_I (v : Byte) : (s.setDelay v).I = s.I := rfl
@[simp] theorem setDelay_pc (v : Byte) : (s.setDelay v).pc = s.pc := rfl
@[simp] theorem setDelay_mem (v : Byte) : (s.setDelay v).mem = s.mem := rfl
@[simp] theorem setDelay_stack (v : Byte) : (s.setDelay v).stack = s.stack := rfl
@[simp] theorem setDelay_sp (v : Byte) : (s.setDelay v).sp = s.sp := rfl
@[simp] theorem setDelay_delay (v : Byte) : (s.setDelay v).delay = v := rfl
@[simp] theorem setDelay_sound (v : Byte) : (s.setDelay v).sound = s.sound := rfl
@[simp] theorem setDelay_ir (v : Byte) : (s.setDelay v).ir = s.ir := rfl
@[simp] theorem setDelay_mode (v : Byte) : (s.setDelay v).mode = s.mode := rfl
@[simp] theorem setDelay_faultCause (v : Byte) : (s.setDelay v).faultCause = s.faultCause := rfl
@[simp] theorem setDelay_fb (v : Byte) : (s.setDelay v).fb = s.fb := rfl
@[simp] theorem setDelay_dispOut (v : Byte) : (s.setDelay v).dispOut = s.dispOut := rfl
@[simp] theorem setDelay_keyIn (v : Byte) : (s.setDelay v).keyIn = s.keyIn := rfl
@[simp] theorem setDelay_randIn (v : Byte) : (s.setDelay v).randIn = s.randIn := rfl
@[simp] theorem setDelay_inputs (v : Byte) : (s.setDelay v).inputs = s.inputs := rfl
@[simp] theorem setDelay_tick (v : Byte) : (s.setDelay v).tick = s.tick := rfl

/-! `State.setSound` -/

@[simp] theorem setSound_V (v : Byte) : (s.setSound v).V = s.V := rfl
@[simp] theorem setSound_I (v : Byte) : (s.setSound v).I = s.I := rfl
@[simp] theorem setSound_pc (v : Byte) : (s.setSound v).pc = s.pc := rfl
@[simp] theorem setSound_mem (v : Byte) : (s.setSound v).mem = s.mem := rfl
@[simp] theorem setSound_stack (v : Byte) : (s.setSound v).stack = s.stack := rfl
@[simp] theorem setSound_sp (v : Byte) : (s.setSound v).sp = s.sp := rfl
@[simp] theorem setSound_delay (v : Byte) : (s.setSound v).delay = s.delay := rfl
@[simp] theorem setSound_sound (v : Byte) : (s.setSound v).sound = v := rfl
@[simp] theorem setSound_ir (v : Byte) : (s.setSound v).ir = s.ir := rfl
@[simp] theorem setSound_mode (v : Byte) : (s.setSound v).mode = s.mode := rfl
@[simp] theorem setSound_faultCause (v : Byte) : (s.setSound v).faultCause = s.faultCause := rfl
@[simp] theorem setSound_fb (v : Byte) : (s.setSound v).fb = s.fb := rfl
@[simp] theorem setSound_dispOut (v : Byte) : (s.setSound v).dispOut = s.dispOut := rfl
@[simp] theorem setSound_keyIn (v : Byte) : (s.setSound v).keyIn = s.keyIn := rfl
@[simp] theorem setSound_randIn (v : Byte) : (s.setSound v).randIn = s.randIn := rfl
@[simp] theorem setSound_inputs (v : Byte) : (s.setSound v).inputs = s.inputs := rfl
@[simp] theorem setSound_tick (v : Byte) : (s.setSound v).tick = s.tick := rfl

/-! `State.skipIf` -/

@[simp] theorem skipIf_V (c : Bool) : (s.skipIf c).V = s.V := rfl
@[simp] theorem skipIf_I (c : Bool) : (s.skipIf c).I = s.I := rfl
@[simp] theorem skipIf_pc (c : Bool) : (s.skipIf c).pc = if c then s.pc + 2 else s.pc := rfl
@[simp] theorem skipIf_mem (c : Bool) : (s.skipIf c).mem = s.mem := rfl
@[simp] theorem skipIf_stack (c : Bool) : (s.skipIf c).stack = s.stack := rfl
@[simp] theorem skipIf_sp (c : Bool) : (s.skipIf c).sp = s.sp := rfl
@[simp] theorem skipIf_delay (c : Bool) : (s.skipIf c).delay = s.delay := rfl
@[simp] theorem skipIf_sound (c : Bool) : (s.skipIf c).sound = s.sound := rfl
@[simp] theorem skipIf_ir (c : Bool) : (s.skipIf c).ir = s.ir := rfl
@[simp] theorem skipIf_mode (c : Bool) : (s.skipIf c).mode = s.mode := rfl
@[simp] theorem skipIf_faultCause (c : Bool) : (s.skipIf c).faultCause = s.faultCause := rfl
@[simp] theorem skipIf_fb (c : Bool) : (s.skipIf c).fb = s.fb := rfl
@[simp] theorem skipIf_dispOut (c : Bool) : (s.skipIf c).dispOut = s.dispOut := rfl
@[simp] theorem skipIf_keyIn (c : Bool) : (s.skipIf c).keyIn = s.keyIn := rfl
@[simp] theorem skipIf_randIn (c : Bool) : (s.skipIf c).randIn = s.randIn := rfl
@[simp] theorem skipIf_inputs (c : Bool) : (s.skipIf c).inputs = s.inputs := rfl
@[simp] theorem skipIf_tick (c : Bool) : (s.skipIf c).tick = s.tick := rfl

/-! `State.memWrite` -/

@[simp] theorem memWrite_V (a : Nat) (v : Byte) : (s.memWrite a v).V = s.V := rfl
@[simp] theorem memWrite_I (a : Nat) (v : Byte) : (s.memWrite a v).I = s.I := rfl
@[simp] theorem memWrite_pc (a : Nat) (v : Byte) : (s.memWrite a v).pc = s.pc := rfl
@[simp] theorem memWrite_mem (a : Nat) (v : Byte) : (s.memWrite a v).mem = Memory.write s.mem (a % 4096) v := rfl
@[simp] theorem memWrite_stack (a : Nat) (v : Byte) : (s.memWrite a v).stack = s.stack := rfl
@[simp] theorem memWrite_sp (a : Nat) (v : Byte) : (s.memWrite a v).sp = s.sp := rfl
@[simp] theorem memWrite_delay (a : Nat) (v : Byte) : (s.memWrite a v).delay = s.delay := rfl
@[simp] theorem memWrite_sound (a : Nat) (v : Byte) : (s.memWrite a v).sound = s.sound := rfl
@[simp] theorem memWrite_ir (a : Nat) (v : Byte) : (s.memWrite a v).ir = s.ir := rfl
@[simp] theorem memWrite_mode (a : Nat) (v : Byte) : (s.memWrite a v).mode = s.mode := rfl
@[simp] theorem memWrite_faultCause (a : Nat) (v : Byte) : (s.memWrite a v).faultCause = s.faultCause := rfl
@[simp] theorem memWrite_fb (a : Nat) (v : Byte) : (s.memWrite a v).fb = s.fb := rfl
@[simp] theorem memWrite_dispOut (a : Nat) (v : Byte) : (s.memWrite a v).dispOut = s.dispOut := rfl
@[simp] theorem memWrite_keyIn (a : Nat) (v : Byte) : (s.memWrite a v).keyIn = s.keyIn := rfl
@[simp] theorem memWrite_randIn (a : Nat) (v : Byte) : (s.memWrite a v).randIn = s.randIn := rfl
@[simp] theorem memWrite_inputs (a : Nat) (v : Byte) : (s.memWrite a v).inputs = s.inputs := rfl
@[simp] theorem memWrite_tick (a : Nat) (v : Byte) : (s.memWrite a v).tick = s.tick := rfl

/-! `State.push` -/

@[simp] theorem push_V (v : Word) (h : s.sp.val < 16) : (s.push v h).V = s.V := rfl
@[simp] theorem push_I (v : Word) (h : s.sp.val < 16) : (s.push v h).I = s.I := rfl
@[simp] theorem push_pc (v : Word) (h : s.sp.val < 16) : (s.push v h).pc = s.pc := rfl
@[simp] theorem push_mem (v : Word) (h : s.sp.val < 16) : (s.push v h).mem = s.mem := rfl
@[simp] theorem push_stack (v : Word) (h : s.sp.val < 16) : (s.push v h).stack = s.stack.set s.sp.val v := rfl
@[simp] theorem push_sp (v : Word) (h : s.sp.val < 16) : (s.push v h).sp = ⟨s.sp.val + 1, by omega⟩ := rfl
@[simp] theorem push_delay (v : Word) (h : s.sp.val < 16) : (s.push v h).delay = s.delay := rfl
@[simp] theorem push_sound (v : Word) (h : s.sp.val < 16) : (s.push v h).sound = s.sound := rfl
@[simp] theorem push_ir (v : Word) (h : s.sp.val < 16) : (s.push v h).ir = s.ir := rfl
@[simp] theorem push_mode (v : Word) (h : s.sp.val < 16) : (s.push v h).mode = s.mode := rfl
@[simp] theorem push_faultCause (v : Word) (h : s.sp.val < 16) : (s.push v h).faultCause = s.faultCause := rfl
@[simp] theorem push_fb (v : Word) (h : s.sp.val < 16) : (s.push v h).fb = s.fb := rfl
@[simp] theorem push_dispOut (v : Word) (h : s.sp.val < 16) : (s.push v h).dispOut = s.dispOut := rfl
@[simp] theorem push_keyIn (v : Word) (h : s.sp.val < 16) : (s.push v h).keyIn = s.keyIn := rfl
@[simp] theorem push_randIn (v : Word) (h : s.sp.val < 16) : (s.push v h).randIn = s.randIn := rfl
@[simp] theorem push_inputs (v : Word) (h : s.sp.val < 16) : (s.push v h).inputs = s.inputs := rfl
@[simp] theorem push_tick (v : Word) (h : s.sp.val < 16) : (s.push v h).tick = s.tick := rfl

/-! `State.pop` -/

@[simp] theorem pop_V (h : 0 < s.sp.val) : (s.pop h).V = s.V := rfl
@[simp] theorem pop_I (h : 0 < s.sp.val) : (s.pop h).I = s.I := rfl
@[simp] theorem pop_pc (h : 0 < s.sp.val) : (s.pop h).pc = s.pc := rfl
@[simp] theorem pop_mem (h : 0 < s.sp.val) : (s.pop h).mem = s.mem := rfl
@[simp] theorem pop_stack (h : 0 < s.sp.val) : (s.pop h).stack = s.stack := rfl
@[simp] theorem pop_sp (h : 0 < s.sp.val) : (s.pop h).sp = ⟨s.sp.val - 1, by omega⟩ := rfl
@[simp] theorem pop_delay (h : 0 < s.sp.val) : (s.pop h).delay = s.delay := rfl
@[simp] theorem pop_sound (h : 0 < s.sp.val) : (s.pop h).sound = s.sound := rfl
@[simp] theorem pop_ir (h : 0 < s.sp.val) : (s.pop h).ir = s.ir := rfl
@[simp] theorem pop_mode (h : 0 < s.sp.val) : (s.pop h).mode = s.mode := rfl
@[simp] theorem pop_faultCause (h : 0 < s.sp.val) : (s.pop h).faultCause = s.faultCause := rfl
@[simp] theorem pop_fb (h : 0 < s.sp.val) : (s.pop h).fb = s.fb := rfl
@[simp] theorem pop_dispOut (h : 0 < s.sp.val) : (s.pop h).dispOut = s.dispOut := rfl
@[simp] theorem pop_keyIn (h : 0 < s.sp.val) : (s.pop h).keyIn = s.keyIn := rfl
@[simp] theorem pop_randIn (h : 0 < s.sp.val) : (s.pop h).randIn = s.randIn := rfl
@[simp] theorem pop_inputs (h : 0 < s.sp.val) : (s.pop h).inputs = s.inputs := rfl
@[simp] theorem pop_tick (h : 0 < s.sp.val) : (s.pop h).tick = s.tick := rfl

/-! `State.raise` -/

@[simp] theorem raise_V (c : FaultCause) : (s.raise c).V = s.V := rfl
@[simp] theorem raise_I (c : FaultCause) : (s.raise c).I = s.I := rfl
@[simp] theorem raise_pc (c : FaultCause) : (s.raise c).pc = s.pc := rfl
@[simp] theorem raise_mem (c : FaultCause) : (s.raise c).mem = s.mem := rfl
@[simp] theorem raise_stack (c : FaultCause) : (s.raise c).stack = s.stack := rfl
@[simp] theorem raise_sp (c : FaultCause) : (s.raise c).sp = s.sp := rfl
@[simp] theorem raise_delay (c : FaultCause) : (s.raise c).delay = s.delay := rfl
@[simp] theorem raise_sound (c : FaultCause) : (s.raise c).sound = s.sound := rfl
@[simp] theorem raise_ir (c : FaultCause) : (s.raise c).ir = s.ir := rfl
@[simp] theorem raise_mode (c : FaultCause) : (s.raise c).mode = .fault := rfl
@[simp] theorem raise_faultCause (c : FaultCause) : (s.raise c).faultCause = c := rfl
@[simp] theorem raise_fb (c : FaultCause) : (s.raise c).fb = s.fb := rfl
@[simp] theorem raise_dispOut (c : FaultCause) : (s.raise c).dispOut = s.dispOut := rfl
@[simp] theorem raise_keyIn (c : FaultCause) : (s.raise c).keyIn = s.keyIn := rfl
@[simp] theorem raise_randIn (c : FaultCause) : (s.raise c).randIn = s.randIn := rfl
@[simp] theorem raise_inputs (c : FaultCause) : (s.raise c).inputs = s.inputs := rfl
@[simp] theorem raise_tick (c : FaultCause) : (s.raise c).tick = s.tick := rfl

/-! `State.sample` -/

@[simp] theorem sample_V : (s.sample).V = s.V := rfl
@[simp] theorem sample_I : (s.sample).I = s.I := rfl
@[simp] theorem sample_pc : (s.sample).pc = s.pc := rfl
@[simp] theorem sample_mem : (s.sample).mem = s.mem := rfl
@[simp] theorem sample_stack : (s.sample).stack = s.stack := rfl
@[simp] theorem sample_sp : (s.sample).sp = s.sp := rfl
@[simp] theorem sample_delay : (s.sample).delay = s.delay := rfl
@[simp] theorem sample_sound : (s.sample).sound = s.sound := rfl
@[simp] theorem sample_ir : (s.sample).ir = s.ir := rfl
@[simp] theorem sample_mode : (s.sample).mode = s.mode := rfl
@[simp] theorem sample_faultCause : (s.sample).faultCause = s.faultCause := rfl
@[simp] theorem sample_fb : (s.sample).fb = s.fb := rfl
@[simp] theorem sample_dispOut : (s.sample).dispOut = s.dispOut := rfl
@[simp] theorem sample_keyIn : (s.sample).keyIn = s.nextInput.keys := rfl
@[simp] theorem sample_randIn : (s.sample).randIn = s.nextInput.rand := rfl
@[simp] theorem sample_inputs : (s.sample).inputs = s.inputs.tail := rfl
@[simp] theorem sample_tick : (s.sample).tick = s.tick + 1 := rfl

/-! `State.countdown` -/

@[simp] theorem countdown_V : (s.countdown).V = s.V := rfl
@[simp] theorem countdown_I : (s.countdown).I = s.I := rfl
@[simp] theorem countdown_pc : (s.countdown).pc = s.pc := rfl
@[simp] theorem countdown_mem : (s.countdown).mem = s.mem := rfl
@[simp] theorem countdown_stack : (s.countdown).stack = s.stack := rfl
@[simp] theorem countdown_sp : (s.countdown).sp = s.sp := rfl
@[simp] theorem countdown_delay : (s.countdown).delay = if s.delay = 0 then 0 else s.delay - 1 := rfl
@[simp] theorem countdown_sound : (s.countdown).sound = s.sound := rfl
@[simp] theorem countdown_ir : (s.countdown).ir = s.ir := rfl
@[simp] theorem countdown_mode : (s.countdown).mode = s.mode := rfl
@[simp] theorem countdown_faultCause : (s.countdown).faultCause = s.faultCause := rfl
@[simp] theorem countdown_fb : (s.countdown).fb = s.fb := rfl
@[simp] theorem countdown_dispOut : (s.countdown).dispOut = s.dispOut := rfl
@[simp] theorem countdown_keyIn : (s.countdown).keyIn = s.keyIn := rfl
@[simp] theorem countdown_randIn : (s.countdown).randIn = s.randIn := rfl
@[simp] theorem countdown_inputs : (s.countdown).inputs = s.inputs := rfl
@[simp] theorem countdown_tick : (s.countdown).tick = s.tick := rfl

/-! `State.fetch` -/

@[simp] theorem fetch_V : (s.fetch).V = s.V := rfl
@[simp] theorem fetch_I : (s.fetch).I = s.I := rfl
@[simp] theorem fetch_pc : (s.fetch).pc = s.pc + 2 := rfl
@[simp] theorem fetch_mem : (s.fetch).mem = s.mem := rfl
@[simp] theorem fetch_stack : (s.fetch).stack = s.stack := rfl
@[simp] theorem fetch_sp : (s.fetch).sp = s.sp := rfl
@[simp] theorem fetch_delay : (s.fetch).delay = s.delay := rfl
@[simp] theorem fetch_sound : (s.fetch).sound = s.sound := rfl
@[simp] theorem fetch_ir : (s.fetch).ir = s.fetchWord := rfl
@[simp] theorem fetch_mode : (s.fetch).mode = s.mode := rfl
@[simp] theorem fetch_faultCause : (s.fetch).faultCause = s.faultCause := rfl
@[simp] theorem fetch_fb : (s.fetch).fb = s.fb := rfl
@[simp] theorem fetch_dispOut : (s.fetch).dispOut = s.dispOut := rfl
@[simp] theorem fetch_keyIn : (s.fetch).keyIn = s.keyIn := rfl
@[simp] theorem fetch_randIn : (s.fetch).randIn = s.randIn := rfl
@[simp] theorem fetch_inputs : (s.fetch).inputs = s.inputs := rfl
@[simp] theorem fetch_tick : (s.fetch).tick = s.tick := rfl

/-! `State.emit` -/

@[simp] theorem emit_V (c : DispCmd) : (s.emit c).V = s.V := rfl
@[simp] theorem emit_I (c : DispCmd) : (s.emit c).I = s.I := rfl
@[simp] theorem emit_pc (c : DispCmd) : (s.emit c).pc = s.pc := rfl
@[simp] theorem emit_mem (c : DispCmd) : (s.emit c).mem = s.mem := rfl
@[simp] theorem emit_stack (c : DispCmd) : (s.emit c).stack = s.stack := rfl
@[simp] theorem emit_sp (c : DispCmd) : (s.emit c).sp = s.sp := rfl
@[simp] theorem emit_delay (c : DispCmd) : (s.emit c).delay = s.delay := rfl
@[simp] theorem emit_sound (c : DispCmd) : (s.emit c).sound = s.sound := rfl
@[simp] theorem emit_ir (c : DispCmd) : (s.emit c).ir = s.ir := rfl
@[simp] theorem emit_mode (c : DispCmd) : (s.emit c).mode = s.mode := rfl
@[simp] theorem emit_faultCause (c : DispCmd) : (s.emit c).faultCause = s.faultCause := rfl
@[simp] theorem emit_fb (c : DispCmd) : (s.emit c).fb = s.fb := rfl
@[simp] theorem emit_dispOut (c : DispCmd) : (s.emit c).dispOut = s.dispOut ++ [c] := rfl
@[simp] theorem emit_keyIn (c : DispCmd) : (s.emit c).keyIn = s.keyIn := rfl
@[simp] theorem emit_randIn (c : DispCmd) : (s.emit c).randIn = s.randIn := rfl
@[simp] theorem emit_inputs (c : DispCmd) : (s.emit c).inputs = s.inputs := rfl
@[simp] theorem emit_tick (c : DispCmd) : (s.emit c).tick = s.tick := rfl

/-! `State.dispXor` -/

@[simp] theorem dispXor_V (x : Fin 64) (y : Fin 32) (v : Bool) : (s.dispXor x y v).V = s.V := rfl
@[simp] theorem dispXor_I (x : Fin 64) (y : Fin 32) (v : Bool) : (s.dispXor x y v).I = s.I := rfl
@[simp] theorem dispXor_pc (x : Fin 64) (y : Fin 32) (v : Bool) : (s.dispXor x y v).pc = s.pc := rfl
@[simp] theorem dispXor_mem (x : Fin 64) (y : Fin 32) (v : Bool) : (s.dispXor x y v).mem = s.mem := rfl
@[simp] theorem dispXor_stack (x : Fin 64) (y : Fin 32) (v : Bool) : (s.dispXor x y v).stack = s.stack := rfl
@[simp] theorem dispXor_sp (x : Fin 64) (y : Fin 32) (v : Bool) : (s.dispXor x y v).sp = s.sp := rfl
@[simp] theorem dispXor_delay (x : Fin 64) (y : Fin 32) (v : Bool) : (s.dispXor x y v).delay = s.delay := rfl
@[simp] theorem dispXor_sound (x : Fin 64) (y : Fin 32) (v : Bool) : (s.dispXor x y v).sound = s.sound := rfl
@[simp] theorem dispXor_ir (x : Fin 64) (y : Fin 32) (v : Bool) : (s.dispXor x y v).ir = s.ir := rfl
@[simp] theorem dispXor_mode (x : Fin 64) (y : Fin 32) (v : Bool) : (s.dispXor x y v).mode = s.mode := rfl
@[simp] theorem dispXor_faultCause (x : Fin 64) (y : Fin 32) (v : Bool) : (s.dispXor x y v).faultCause = s.faultCause := rfl
@[simp] theorem dispXor_fb (x : Fin 64) (y : Fin 32) (v : Bool) : (s.dispXor x y v).fb = s.fb.set y.val (s.fb[y.val].set x.val (s.pixel x y ^^ v)) := rfl
@[simp] theorem dispXor_dispOut (x : Fin 64) (y : Fin 32) (v : Bool) : (s.dispXor x y v).dispOut = s.dispOut ++ [.xor x y v] := rfl
@[simp] theorem dispXor_keyIn (x : Fin 64) (y : Fin 32) (v : Bool) : (s.dispXor x y v).keyIn = s.keyIn := rfl
@[simp] theorem dispXor_randIn (x : Fin 64) (y : Fin 32) (v : Bool) : (s.dispXor x y v).randIn = s.randIn := rfl
@[simp] theorem dispXor_inputs (x : Fin 64) (y : Fin 32) (v : Bool) : (s.dispXor x y v).inputs = s.inputs := rfl
@[simp] theorem dispXor_tick (x : Fin 64) (y : Fin 32) (v : Bool) : (s.dispXor x y v).tick = s.tick := rfl

/-! `State.dispClear` -/

@[simp] theorem dispClear_V : (s.dispClear).V = s.V := rfl
@[simp] theorem dispClear_I : (s.dispClear).I = s.I := rfl
@[simp] theorem dispClear_pc : (s.dispClear).pc = s.pc := rfl
@[simp] theorem dispClear_mem : (s.dispClear).mem = s.mem := rfl
@[simp] theorem dispClear_stack : (s.dispClear).stack = s.stack := rfl
@[simp] theorem dispClear_sp : (s.dispClear).sp = s.sp := rfl
@[simp] theorem dispClear_delay : (s.dispClear).delay = s.delay := rfl
@[simp] theorem dispClear_sound : (s.dispClear).sound = s.sound := rfl
@[simp] theorem dispClear_ir : (s.dispClear).ir = s.ir := rfl
@[simp] theorem dispClear_mode : (s.dispClear).mode = s.mode := rfl
@[simp] theorem dispClear_faultCause : (s.dispClear).faultCause = s.faultCause := rfl
@[simp] theorem dispClear_fb : (s.dispClear).fb = Screen.allOff := rfl
@[simp] theorem dispClear_dispOut : (s.dispClear).dispOut = s.dispOut ++ [.clear] := rfl
@[simp] theorem dispClear_keyIn : (s.dispClear).keyIn = s.keyIn := rfl
@[simp] theorem dispClear_randIn : (s.dispClear).randIn = s.randIn := rfl
@[simp] theorem dispClear_inputs : (s.dispClear).inputs = s.inputs := rfl
@[simp] theorem dispClear_tick : (s.dispClear).tick = s.tick := rfl

/-! `State.dispRender` -/

@[simp] theorem dispRender_V : (s.dispRender).V = s.V := rfl
@[simp] theorem dispRender_I : (s.dispRender).I = s.I := rfl
@[simp] theorem dispRender_pc : (s.dispRender).pc = s.pc := rfl
@[simp] theorem dispRender_mem : (s.dispRender).mem = s.mem := rfl
@[simp] theorem dispRender_stack : (s.dispRender).stack = s.stack := rfl
@[simp] theorem dispRender_sp : (s.dispRender).sp = s.sp := rfl
@[simp] theorem dispRender_delay : (s.dispRender).delay = s.delay := rfl
@[simp] theorem dispRender_sound : (s.dispRender).sound = s.sound := rfl
@[simp] theorem dispRender_ir : (s.dispRender).ir = s.ir := rfl
@[simp] theorem dispRender_mode : (s.dispRender).mode = s.mode := rfl
@[simp] theorem dispRender_faultCause : (s.dispRender).faultCause = s.faultCause := rfl
@[simp] theorem dispRender_fb : (s.dispRender).fb = s.fb := rfl
@[simp] theorem dispRender_dispOut : (s.dispRender).dispOut = s.dispOut ++ [.render] := rfl
@[simp] theorem dispRender_keyIn : (s.dispRender).keyIn = s.keyIn := rfl
@[simp] theorem dispRender_randIn : (s.dispRender).randIn = s.randIn := rfl
@[simp] theorem dispRender_inputs : (s.dispRender).inputs = s.inputs := rfl
@[simp] theorem dispRender_tick : (s.dispRender).tick = s.tick := rfl

end Sys2Proof.Machine.Laws
end

