-- ==== Sys2Proof/Laws/Memory.lean ====
section
/-! SUPPORT. What the memory operations do: read after write, the canonical form, successive stores, and that everything else
stays. -/

namespace Sys2Proof.Machine.Laws

/-! ### The list of cells -/

theorem read_insert (m : List Host.Cell) (a : Nat) (b : Byte) (k : Nat) (h : ∀ c ∈ m, c.1 ≠ a) :
    Memory.read (Memory.insert a b m) k = if a = k then b else Memory.read m k := by
  induction m with
  | nil => simp [Memory.insert, Memory.read]
  | cons c m ih =>
    obtain ⟨k', c'⟩ := c
    have hk : k' ≠ a := h (k', c') (by simp)
    have ih := ih (fun c hc => h c (by simp [hc]))
    simp only [Memory.insert]
    split
    · simp [Memory.read]
    · simp only [Memory.read, ih]
      by_cases h1 : k' = k <;> by_cases h2 : a = k <;> simp_all

theorem read_filter (m : List Host.Cell) (a k : Nat) :
    Memory.read (m.filter (fun c => c.1 != a)) k = if a = k then Memory.unlisted k else Memory.read m k := by
  induction m with
  | nil => simp [Memory.read]
  | cons c m ih =>
    obtain ⟨k', c'⟩ := c
    by_cases h1 : k' = a
    · subst h1
      simp only [List.filter_cons, bne_self_eq_false, Bool.false_eq_true, if_false, ih, Memory.read]
      by_cases h2 : k' = k <;> simp [h2]
    · have : (k' != a) = true := by simp [h1]
      simp only [List.filter_cons, this, if_true, Memory.read, ih]
      by_cases h2 : k' = k
      · subst h2; simp [Ne.symm h1]
      · simp [h2]

/-- A read gives the last value written there; a write leaves every other address alone. -/
theorem read_write (m : List Host.Cell) (a : Nat) (b : Byte) (k : Nat) :
    Memory.read (Memory.write m a b) k = if a = k then b else Memory.read m k := by
  unfold Memory.write
  split
  next h => rw [read_filter]; by_cases hk : a = k <;> simp_all
  next h =>
    rw [read_insert _ _ _ _ (by simp [List.mem_filter]), read_filter]
    by_cases hk : a = k <;> simp [hk]

theorem mem_insert (m : List Host.Cell) (a : Nat) (b : Byte) (c : Host.Cell) :
    c ∈ Memory.insert a b m ↔ c = (a, b) ∨ c ∈ m := by
  induction m with
  | nil => simp [Memory.insert]
  | cons d m ih =>
    simp only [Memory.insert]
    split
    · simp
    · simp only [List.mem_cons, ih]; tauto

theorem pairwise_insert (m : List Host.Cell) (a : Nat) (b : Byte) (hm : m.Pairwise (fun c d => c.1 < d.1))
    (h : ∀ c ∈ m, c.1 ≠ a) : (Memory.insert a b m).Pairwise (fun c d => c.1 < d.1) := by
  induction m with
  | nil => simp [Memory.insert]
  | cons d m ih =>
    obtain ⟨hd, hm⟩ := List.pairwise_cons.1 hm
    have hne : d.1 ≠ a := h d (by simp)
    simp only [Memory.insert]
    split
    next hlt =>
      refine List.pairwise_cons.2 ⟨fun c hc => ?_, List.pairwise_cons.2 ⟨hd, hm⟩⟩
      rcases List.mem_cons.1 hc with rfl | hc
      · exact hlt
      · exact lt_trans hlt (hd c hc)
    next hlt =>
      refine List.pairwise_cons.2 ⟨fun c hc => ?_, ih hm (fun c hc => h c (by simp [hc]))⟩
      rcases (mem_insert m a b c).1 hc with rfl | hc
      · show d.1 < a; omega
      · exact hd c hc

/-- Every write keeps the canonical form. -/
theorem wf_write (m : List Host.Cell) (a : Nat) (b : Byte) (ha : a < 4096) (h : Memory.wf m) :
    Memory.wf (Memory.write m a b) := by
  obtain ⟨hp, hc⟩ := h
  have hp' := hp.filter (fun c => c.1 != a)
  have hc' : ∀ c ∈ m.filter (fun c => c.1 != a), c.1 < 4096 ∧ c.2 ≠ Memory.unlisted c.1 :=
    fun c h => hc c (List.mem_filter.1 h).1
  unfold Memory.write
  split
  next => exact ⟨hp', hc'⟩
  next hb =>
    refine ⟨pairwise_insert _ _ _ hp' (by simp [List.mem_filter]), fun c h => ?_⟩
    rcases (mem_insert _ _ _ c).1 h with rfl | h
    · exact ⟨ha, hb⟩
    · exact hc' c h

/-! ### The machine's memory primitives (R43, R44) -/

/-- `MemRead` after `MemWrite`, both addresses reduced modulo 4096 (R43, R44). -/
theorem memRead_memWrite (s : State) (a : Nat) (v : Byte) (k : Nat) :
    (s.memWrite a v).memRead k = if a % 4096 = k % 4096 then v else s.memRead k := by
  simp [State.memRead, read_write]

theorem memWrite_wf (s : State) (a : Nat) (v : Byte) (h : Memory.wf s.mem) : Memory.wf (s.memWrite a v).mem :=
  wf_write _ _ _ (Nat.mod_lt _ (by decide)) h

/-- Two states with the same memory read the same. -/
theorem memRead_congr (s t : State) (h : t.mem = s.mem) (a : Nat) : t.memRead a = s.memRead a := by
  simp [State.memRead, h]

@[simp] theorem memRead_setMem (s : State) (m : List Host.Cell) (a : Nat) :
    ({ s with mem := m } : State).memRead a = Memory.read m (a % 4096) := rfl

/-! ### Successive stores -/

/-- `storeBytes` changes nothing but memory. -/
theorem storeBytes_frame (s : State) (base : Nat) (bs : List Byte) :
    s.storeBytes base bs = { s with mem := (s.storeBytes base bs).mem } := by
  induction bs generalizing s base with
  | nil => rfl
  | cons b bs ih => simpa [State.storeBytes, State.memWrite] using ih (s.memWrite base b) (base + 1)

/-- `storeBytes` keeps the canonical form. -/
theorem storeBytes_wf (s : State) (base : Nat) (bs : List Byte) (h : Memory.wf s.mem) :
    Memory.wf (s.storeBytes base bs).mem := by
  induction bs generalizing s base with
  | nil => exact h
  | cons b bs ih => exact ih _ _ (memWrite_wf s base b h)

/-- An address outside the stored bytes reads as before. -/
theorem memRead_storeBytes_of_outside (s : State) (base : Nat) (bs : List Byte) (a : Nat)
    (h : ∀ j, j < bs.length → a % 4096 ≠ (base + j) % 4096) : (s.storeBytes base bs).memRead a = s.memRead a := by
  induction bs generalizing s base with
  | nil => rfl
  | cons b bs ih =>
    have h0 : ¬ base % 4096 = a % 4096 := fun e => h 0 (by simp) (by simpa using e.symm)
    rw [State.storeBytes, ih _ _ (fun j hj => ?_), memRead_memWrite, if_neg h0]
    have := h (j + 1) (by simpa using hj)
    rwa [show base + (j + 1) = base + 1 + j by omega] at this

/-- Byte `j` of the stored bytes stands at `base + j`, for at most 4096 bytes (no byte lands on another, R51). -/
theorem memRead_storeBytes (s : State) (base : Nat) (bs : List Byte) (hlen : bs.length ≤ 4096) (j : Nat)
    (hj : j < bs.length) : (s.storeBytes base bs).memRead (base + j) = bs[j] := by
  induction bs generalizing s base j with
  | nil => simp at hj
  | cons b bs ih =>
    simp only [List.length_cons] at hlen hj
    rw [State.storeBytes]
    cases j with
    | zero =>
      rw [memRead_storeBytes_of_outside _ _ _ _ (fun i hi => by omega), memRead_memWrite, if_pos (by simp)]
      rfl
    | succ j =>
      rw [show base + (j + 1) = base + 1 + j by omega, ih _ _ (by omega) _ (by omega)]
      rfl

/-! `storeBytes`, field by field -/

@[simp] theorem storeBytes_V (s : State) (base : Nat) (bs : List Byte) : (s.storeBytes base bs).V = s.V := by rw [storeBytes_frame]
@[simp] theorem storeBytes_I (s : State) (base : Nat) (bs : List Byte) : (s.storeBytes base bs).I = s.I := by rw [storeBytes_frame]
@[simp] theorem storeBytes_pc (s : State) (base : Nat) (bs : List Byte) : (s.storeBytes base bs).pc = s.pc := by rw [storeBytes_frame]
@[simp] theorem storeBytes_stack (s : State) (base : Nat) (bs : List Byte) : (s.storeBytes base bs).stack = s.stack := by rw [storeBytes_frame]
@[simp] theorem storeBytes_sp (s : State) (base : Nat) (bs : List Byte) : (s.storeBytes base bs).sp = s.sp := by rw [storeBytes_frame]
@[simp] theorem storeBytes_delay (s : State) (base : Nat) (bs : List Byte) : (s.storeBytes base bs).delay = s.delay := by rw [storeBytes_frame]
@[simp] theorem storeBytes_sound (s : State) (base : Nat) (bs : List Byte) : (s.storeBytes base bs).sound = s.sound := by rw [storeBytes_frame]
@[simp] theorem storeBytes_ir (s : State) (base : Nat) (bs : List Byte) : (s.storeBytes base bs).ir = s.ir := by rw [storeBytes_frame]
@[simp] theorem storeBytes_mode (s : State) (base : Nat) (bs : List Byte) : (s.storeBytes base bs).mode = s.mode := by rw [storeBytes_frame]
@[simp] theorem storeBytes_faultCause (s : State) (base : Nat) (bs : List Byte) : (s.storeBytes base bs).faultCause = s.faultCause := by rw [storeBytes_frame]
@[simp] theorem storeBytes_fb (s : State) (base : Nat) (bs : List Byte) : (s.storeBytes base bs).fb = s.fb := by rw [storeBytes_frame]
@[simp] theorem storeBytes_dispOut (s : State) (base : Nat) (bs : List Byte) : (s.storeBytes base bs).dispOut = s.dispOut := by rw [storeBytes_frame]
@[simp] theorem storeBytes_keyIn (s : State) (base : Nat) (bs : List Byte) : (s.storeBytes base bs).keyIn = s.keyIn := by rw [storeBytes_frame]
@[simp] theorem storeBytes_randIn (s : State) (base : Nat) (bs : List Byte) : (s.storeBytes base bs).randIn = s.randIn := by rw [storeBytes_frame]
@[simp] theorem storeBytes_inputs (s : State) (base : Nat) (bs : List Byte) : (s.storeBytes base bs).inputs = s.inputs := by rw [storeBytes_frame]
@[simp] theorem storeBytes_tick (s : State) (base : Nat) (bs : List Byte) : (s.storeBytes base bs).tick = s.tick := by rw [storeBytes_frame]
@[simp] theorem storeBytes_reg (s : State) (base : Nat) (bs : List Byte) (r : Reg) : (s.storeBytes base bs).reg r = s.reg r := by
  rw [storeBytes_frame]; rfl

end Sys2Proof.Machine.Laws
end

