-- ==== Sys2Proof/Laws/PerInstr.lean ====
section
/-! SUPPORT. The per-instruction family `Encoding`: the word of an instruction carries its row's match under its row's mask
(R65). -/

namespace Sys2Proof.Laws.Encoding

/-- "A word `w` selects the row iff `w AND mask = match`" (R65): the encoded word selects its own row. -/
def Statement (i : Instr) : Prop := encode i &&& i.rowMask = i.rowMatch

theorem and_0xF (n : Nibble) : n &&& 0xF#4 = n := BitVec.and_allOnes
theorem and_0xFF (n : Byte) : n &&& 0xFF#8 = n := BitVec.and_allOnes

/-! Each format under the masks its rows use: the operand fields are cleared. -/

theorem mask_A (op : Nibble) (nnn : Addr) : encodeA op nnn &&& 0xF000 = encodeA op 0 := by
  show (op ++ nnn : BitVec (4 + 12)) &&& (0xF#4 ++ 0x000#12 : BitVec (4 + 12)) = op ++ 0#12
  rw [BitVec.and_append, and_0xF, BitVec.and_zero]

theorem mask_XK (op : Nibble) (x : Reg) (kk : Byte) : encodeXK op x kk &&& 0xF000 = encodeXK op 0 0 := by
  show (op ++ (BitVec.ofFin x : Nibble) ++ kk : BitVec (4 + 4 + 8)) &&& (0xF#4 ++ 0x0#4 ++ 0x00#8 : BitVec (4 + 4 + 8)) =
    op ++ 0#4 ++ 0#8
  rw [BitVec.and_append, BitVec.and_append, and_0xF, BitVec.and_zero, BitVec.and_zero]

theorem mask_XF (op : Nibble) (x : Reg) (kk : Byte) : encodeXK op x kk &&& 0xF0FF = encodeXK op 0 kk := by
  show (op ++ (BitVec.ofFin x : Nibble) ++ kk : BitVec (4 + 4 + 8)) &&& (0xF#4 ++ 0x0#4 ++ 0xFF#8 : BitVec (4 + 4 + 8)) =
    op ++ 0#4 ++ kk
  rw [BitVec.and_append, BitVec.and_append, and_0xF, BitVec.and_zero, and_0xFF]

theorem mask_XY (op : Nibble) (x y : Reg) (n : Nibble) : encodeXYN op x y n &&& 0xF000 = encodeXYN op 0 0 0 := by
  show (op ++ (BitVec.ofFin x : Nibble) ++ (BitVec.ofFin y : Nibble) ++ n : BitVec (4 + 4 + 4 + 4)) &&&
    (0xF#4 ++ 0x0#4 ++ 0x0#4 ++ 0x0#4 : BitVec (4 + 4 + 4 + 4)) = op ++ 0#4 ++ 0#4 ++ 0#4
  rw [BitVec.and_append, BitVec.and_append, BitVec.and_append, and_0xF, BitVec.and_zero, BitVec.and_zero, BitVec.and_zero]

theorem mask_XYF (op : Nibble) (x y : Reg) (n : Nibble) : encodeXYN op x y n &&& 0xF00F = encodeXYN op 0 0 n := by
  show (op ++ (BitVec.ofFin x : Nibble) ++ (BitVec.ofFin y : Nibble) ++ n : BitVec (4 + 4 + 4 + 4)) &&&
    (0xF#4 ++ 0x0#4 ++ 0x0#4 ++ 0xF#4 : BitVec (4 + 4 + 4 + 4)) = op ++ 0#4 ++ 0#4 ++ n
  rw [BitVec.and_append, BitVec.and_append, BitVec.and_append, and_0xF, BitVec.and_zero, BitVec.and_zero, and_0xF]

/-! One lemma per constructor. -/

theorem clearScreen : Statement .clearScreen := by unfold Statement; decide
theorem ret : Statement .ret := by unfold Statement; decide
theorem jump (nnn : Addr) : Statement (.jump nnn) := mask_A 0x1 nnn
theorem call (nnn : Addr) : Statement (.call nnn) := mask_A 0x2 nnn
theorem skipEqImm (x : Reg) (kk : Byte) : Statement (.skipEqImm x kk) := mask_XK 0x3 x kk
theorem skipNeImm (x : Reg) (kk : Byte) : Statement (.skipNeImm x kk) := mask_XK 0x4 x kk
theorem skipEqReg (x y : Reg) (ign : Nibble) : Statement (.skipEqReg x y ign) := mask_XY 0x5 x y ign
theorem loadImm (x : Reg) (kk : Byte) : Statement (.loadImm x kk) := mask_XK 0x6 x kk
theorem addImm (x : Reg) (kk : Byte) : Statement (.addImm x kk) := mask_XK 0x7 x kk
theorem loadReg (x y : Reg) : Statement (.loadReg x y) := mask_XYF 0x8 x y 0x0
theorem or (x y : Reg) : Statement (.or x y) := mask_XYF 0x8 x y 0x1
theorem and (x y : Reg) : Statement (.and x y) := mask_XYF 0x8 x y 0x2
theorem xor (x y : Reg) : Statement (.xor x y) := mask_XYF 0x8 x y 0x3
theorem addReg (x y : Reg) : Statement (.addReg x y) := mask_XYF 0x8 x y 0x4
theorem subReg (x y : Reg) : Statement (.subReg x y) := mask_XYF 0x8 x y 0x5
theorem shr (x y : Reg) : Statement (.shr x y) := mask_XYF 0x8 x y 0x6
theorem subnReg (x y : Reg) : Statement (.subnReg x y) := mask_XYF 0x8 x y 0x7
theorem shl (x y : Reg) : Statement (.shl x y) := mask_XYF 0x8 x y 0xE
theorem skipNeReg (x y : Reg) (ign : Nibble) : Statement (.skipNeReg x y ign) := mask_XY 0x9 x y ign
theorem loadIndex (nnn : Addr) : Statement (.loadIndex nnn) := mask_A 0xA nnn
theorem jumpOffset (nnn : Addr) : Statement (.jumpOffset nnn) := mask_A 0xB nnn
theorem randomAnd (x : Reg) (kk : Byte) : Statement (.randomAnd x kk) := mask_XK 0xC x kk
theorem drawSprite (x y : Reg) (n : Nibble) : Statement (.drawSprite x y n) := mask_XY 0xD x y n
theorem skipIfKeyDown (x : Reg) : Statement (.skipIfKeyDown x) := mask_XF 0xE x 0x9E
theorem skipIfKeyUp (x : Reg) : Statement (.skipIfKeyUp x) := mask_XF 0xE x 0xA1
theorem readDelayTimer (x : Reg) : Statement (.readDelayTimer x) := mask_XF 0xF x 0x07
theorem awaitKey (x : Reg) : Statement (.awaitKey x) := mask_XF 0xF x 0x0A
theorem setDelayTimer (x : Reg) : Statement (.setDelayTimer x) := mask_XF 0xF x 0x15
theorem setSoundTimer (x : Reg) : Statement (.setSoundTimer x) := mask_XF 0xF x 0x18
theorem addToIndex (x : Reg) : Statement (.addToIndex x) := mask_XF 0xF x 0x1E
theorem loadFontAddress (x : Reg) : Statement (.loadFontAddress x) := mask_XF 0xF x 0x29
theorem storeBcd (x : Reg) : Statement (.storeBcd x) := mask_XF 0xF x 0x33
theorem storeBlock (x : Reg) : Statement (.storeBlock x) := mask_XF 0xF x 0x55
theorem loadBlock (x : Reg) : Statement (.loadBlock x) := mask_XF 0xF x 0x65

end Sys2Proof.Laws.Encoding
end

