-- ==== Sys2Proof/Laws/Regs.lean ====
section
/-! SUPPORT. Reads and writes of the general registers, blocks of registers, the flag write, and the choice of a key. -/

namespace Sys2Proof.Machine.Laws

/-- A register reads as the value last written to it. -/
@[simp] theorem reg_setReg (s : State) (x : Reg) (v : Byte) (r : Reg) :
    (s.setReg x v).reg r = if x = r then v else s.reg r := by
  simp [State.reg, State.setReg, Vector.getElem_set, Fin.ext_iff]

theorem reg_congr (s t : State) (h : t.V = s.V) (r : Reg) : t.reg r = s.reg r := by simp [State.reg, h]

/-- V0 to VX are the registers whose number is at most X. -/
@[simp] theorem mem_regsUpTo (x r : Reg) : r ∈ regsUpTo x ↔ r ≤ x := by
  have : r ∈ ([0, 1, 2, 3, 4, 5, 6, 7, 8, 9, 10, 11, 12, 13, 14, 15] : List Reg) := by revert r; decide
  simp only [regsUpTo, List.mem_filter, this, true_and, decide_eq_true_eq]

/-- There are X + 1 of them (R154). -/
@[simp] theorem length_regsUpTo (x : Reg) : (regsUpTo x).length = x.val + 1 := by revert x; decide

theorem getElem_regsUpTo_fin : ∀ (x : Reg) (i : Fin (regsUpTo x).length), ((regsUpTo x)[i.val]'i.isLt).val = i.val := by
  decide

/-- The one at place `i` is register `i`. -/
theorem getElem_regsUpTo (x : Reg) (i : Nat) (h : i < (regsUpTo x).length) : ((regsUpTo x)[i]).val = i :=
  getElem_regsUpTo_fin x ⟨i, h⟩

@[simp] theorem length_blockBytes (s : State) (x : Reg) : (s.blockBytes x).length = x.val + 1 := by
  simp [State.blockBytes]

/-- Byte `i` of the block is V[i] (R154). -/
theorem getElem_blockBytes (s : State) (x i : Reg) (h : i ≤ x) :
    (s.blockBytes x)[i.val]'(by simp; omega) = s.reg i := by
  have := getElem_regsUpTo x i.val (by simp; omega)
  simp only [State.blockBytes, List.getElem_map]
  congr 1
  exact Fin.ext this

theorem foldl_setReg_frame (f : Reg → Byte) (rs : List Reg) (t : State) :
    rs.foldl (fun t i => t.setReg i (f i)) t = { t with V := (rs.foldl (fun t i => t.setReg i (f i)) t).V } := by
  induction rs generalizing t with
  | nil => rfl
  | cons r rs ih => simpa [State.setReg] using ih (t.setReg r (f r))

theorem foldl_setReg_reg (f : Reg → Byte) (rs : List Reg) (t : State) (r : Reg) :
    (rs.foldl (fun t i => t.setReg i (f i)) t).reg r = if r ∈ rs then f r else t.reg r := by
  induction rs generalizing t with
  | nil => simp
  | cons q rs ih =>
    simp only [List.foldl_cons, ih, reg_setReg, List.mem_cons]
    by_cases h1 : r ∈ rs
    · simp [h1]
    · by_cases h2 : q = r
      · simp [h2]
      · simp [h1, h2, Ne.symm h2]

/-- Each listed register gets its byte; the others keep theirs (R155). -/
theorem loadRegs_reg (s : State) (rs : List Reg) (r : Reg) :
    (s.loadRegs rs).reg r = if r ∈ rs then s.memRead (s.ea r.val) else s.reg r :=
  foldl_setReg_reg (fun i => s.memRead (s.ea i.val)) rs s r

/-- `loadRegs` changes nothing but general registers. -/
theorem loadRegs_frame (s : State) (rs : List Reg) : s.loadRegs rs = { s with V := (s.loadRegs rs).V } :=
  foldl_setReg_frame (fun i => s.memRead (s.ea i.val)) rs s

/-- Flag first, result second: with X = 15 the result stands (R133). -/
@[simp] theorem setFlagThenReg_reg (s : State) (f : Byte) (x : Reg) (v : Byte) (r : Reg) :
    (s.setFlagThenReg f x v).reg r = if x = r then v else if vf = r then f else s.reg r := by
  simp [State.setFlagThenReg]

theorem setFlagThenReg_frame (s : State) (f : Byte) (x : Reg) (v : Byte) :
    s.setFlagThenReg f x v = { s with V := (s.setFlagThenReg f x v).V } := rfl

/-! ### The choice of a key (R193) -/

theorem leastKey_eq_none (keys : BitVec 16) : leastKey keys = none ↔ keys = 0 := by
  constructor
  · intro h
    have h := List.find?_eq_none.1 h
    refine BitVec.eq_of_getLsbD_eq fun i hi => ?_
    have hm : (⟨i, hi⟩ : Key) ∈ ([0, 1, 2, 3, 4, 5, 6, 7, 8, 9, 10, 11, 12, 13, 14, 15] : List Key) := by
      generalize (⟨i, hi⟩ : Key) = k; revert k; decide
    simpa using h _ hm
  · rintro rfl
    exact List.find?_eq_none.2 (by simp)

theorem find?_least (p : Key → Bool) :
    ∀ k, ([0, 1, 2, 3, 4, 5, 6, 7, 8, 9, 10, 11, 12, 13, 14, 15] : List Key).find? p = some k →
      p k = true ∧ ∀ j, j < k → p j = false := by
  intro k h
  obtain ⟨hk, as, bs, hl, ha⟩ := List.find?_eq_some_iff_append.1 h
  refine ⟨hk, fun j hj => ?_⟩
  have hsorted : ([0, 1, 2, 3, 4, 5, 6, 7, 8, 9, 10, 11, 12, 13, 14, 15] : List Key).Pairwise (· < ·) := by decide
  have hjm : j ∈ ([0, 1, 2, 3, 4, 5, 6, 7, 8, 9, 10, 11, 12, 13, 14, 15] : List Key) := by
    generalize j = j; revert j; decide
  rw [hl] at hsorted hjm
  rcases List.mem_append.1 hjm with h | h
  · simpa using ha j h
  · rcases List.mem_cons.1 h with rfl | h
    · exact absurd hj (lt_irrefl _)
    · have := (List.pairwise_cons.1 (List.pairwise_append.1 hsorted).2.1).1 j h
      exact absurd hj (by simpa using le_of_lt this)

/-- What `leastKey` finds is down, and no lower key is. -/
theorem leastKey_spec (keys : BitVec 16) (k : Key) (h : leastKey keys = some k) :
    keys.getLsbD k.val = true ∧ ∀ j : Key, j < k → keys.getLsbD j.val = false :=
  find?_least _ k h

/-- The look at the keys, by cases (R193, R218). -/
theorem lookForKey_cases (s : State) (x : Reg) :
    (s.keyIn = 0 ∧ s.lookForKey x = { s with mode := .awaitKey }) ∨
    (∃ k, leastKey s.keyIn = some k ∧ s.lookForKey x = { s.setReg x (keyByte k) with mode := .run }) := by
  unfold State.lookForKey
  cases h : leastKey s.keyIn with
  | none => exact .inl ⟨(leastKey_eq_none _).1 h, rfl⟩
  | some k => exact .inr ⟨k, rfl, rfl⟩

/-- The look at the keys changes nothing but a general register and the mode. -/
theorem lookForKey_frame (s : State) (x : Reg) :
    s.lookForKey x = { s with V := (s.lookForKey x).V, mode := (s.lookForKey x).mode } := by
  rcases lookForKey_cases s x with ⟨_, h⟩ | ⟨_, _, h⟩
  · rw [h]
  · rw [h]; rfl

/-- A return, by cases: it pops, or with nothing held it faults (R100, R211). -/
theorem exec_ret_cases (s : State) :
    (∃ h : 0 < s.sp.val, exec .ret s = .next ((s.pop h).setPc (s.top h))) ∨
    (s.sp.val = 0 ∧ exec .ret s = .next (s.raise .stackUnderflow)) := by
  by_cases h : 0 < s.sp.val
  · exact .inl ⟨h, congrArg _ (dif_pos h)⟩
  · exact .inr ⟨by omega, congrArg _ (dif_neg h)⟩

/-- A call, by cases: it pushes, or with sixteen held it faults (R102, R211). -/
theorem exec_call_cases (nnn : Addr) (s : State) :
    (∃ h : s.sp.val < 16, exec (.call nnn) s = .next ((s.push s.pc h).setPc (zextAddr nnn))) ∨
    (s.sp.val = 16 ∧ exec (.call nnn) s = .next (s.raise .stackOverflow)) := by
  by_cases h : s.sp.val < 16
  · exact .inl ⟨h, congrArg _ (dif_pos h)⟩
  · exact .inr ⟨by omega, congrArg _ (dif_neg h)⟩

/-! `loadRegs` and `lookForKey`, field by field -/

@[simp] theorem loadRegs_I (s : State) (rs : List Reg) : (s.loadRegs rs).I = s.I := by rw [loadRegs_frame]
@[simp] theorem loadRegs_pc (s : State) (rs : List Reg) : (s.loadRegs rs).pc = s.pc := by rw [loadRegs_frame]
@[simp] theorem loadRegs_mem (s : State) (rs : List Reg) : (s.loadRegs rs).mem = s.mem := by rw [loadRegs_frame]
@[simp] theorem loadRegs_stack (s : State) (rs : List Reg) : (s.loadRegs rs).stack = s.stack := by rw [loadRegs_frame]
@[simp] theorem loadRegs_sp (s : State) (rs : List Reg) : (s.loadRegs rs).sp = s.sp := by rw [loadRegs_frame]
@[simp] theorem loadRegs_delay (s : State) (rs : List Reg) : (s.loadRegs rs).delay = s.delay := by rw [loadRegs_frame]
@[simp] theorem loadRegs_sound (s : State) (rs : List Reg) : (s.loadRegs rs).sound = s.sound := by rw [loadRegs_frame]
@[simp] theorem loadRegs_ir (s : State) (rs : List Reg) : (s.loadRegs rs).ir = s.ir := by rw [loadRegs_frame]
@[simp] theorem loadRegs_mode (s : State) (rs : List Reg) : (s.loadRegs rs).mode = s.mode := by rw [loadRegs_frame]
@[simp] theorem loadRegs_faultCause (s : State) (rs : List Reg) : (s.loadRegs rs).faultCause = s.faultCause := by rw [loadRegs_frame]
@[simp] theorem loadRegs_fb (s : State) (rs : List Reg) : (s.loadRegs rs).fb = s.fb := by rw [loadRegs_frame]
@[simp] theorem loadRegs_dispOut (s : State) (rs : List Reg) : (s.loadRegs rs).dispOut = s.dispOut := by rw [loadRegs_frame]
@[simp] theorem loadRegs_keyIn (s : State) (rs : List Reg) : (s.loadRegs rs).keyIn = s.keyIn := by rw [loadRegs_frame]
@[simp] theorem loadRegs_randIn (s : State) (rs : List Reg) : (s.loadRegs rs).randIn = s.randIn := by rw [loadRegs_frame]
@[simp] theorem loadRegs_inputs (s : State) (rs : List Reg) : (s.loadRegs rs).inputs = s.inputs := by rw [loadRegs_frame]
@[simp] theorem loadRegs_tick (s : State) (rs : List Reg) : (s.loadRegs rs).tick = s.tick := by rw [loadRegs_frame]
@[simp] theorem loadRegs_memRead (s : State) (rs : List Reg) (a : Nat) : (s.loadRegs rs).memRead a = s.memRead a := by
  rw [loadRegs_frame]; rfl
@[simp] theorem lookForKey_I (s : State) (x : Reg) : (s.lookForKey x).I = s.I := by rw [lookForKey_frame]
@[simp] theorem lookForKey_pc (s : State) (x : Reg) : (s.lookForKey x).pc = s.pc := by rw [lookForKey_frame]
@[simp] theorem lookForKey_mem (s : State) (x : Reg) : (s.lookForKey x).mem = s.mem := by rw [lookForKey_frame]
@[simp] theorem lookForKey_stack (s : State) (x : Reg) : (s.lookForKey x).stack = s.stack := by rw [lookForKey_frame]
@[simp] theorem lookForKey_sp (s : State) (x : Reg) : (s.lookForKey x).sp = s.sp := by rw [lookForKey_frame]
@[simp] theorem lookForKey_delay (s : State) (x : Reg) : (s.lookForKey x).delay = s.delay := by rw [lookForKey_frame]
@[simp] theorem lookForKey_sound (s : State) (x : Reg) : (s.lookForKey x).sound = s.sound := by rw [lookForKey_frame]
@[simp] theorem lookForKey_ir (s : State) (x : Reg) : (s.lookForKey x).ir = s.ir := by rw [lookForKey_frame]
@[simp] theorem lookForKey_faultCause (s : State) (x : Reg) : (s.lookForKey x).faultCause = s.faultCause := by rw [lookForKey_frame]
@[simp] theorem lookForKey_fb (s : State) (x : Reg) : (s.lookForKey x).fb = s.fb := by rw [lookForKey_frame]
@[simp] theorem lookForKey_dispOut (s : State) (x : Reg) : (s.lookForKey x).dispOut = s.dispOut := by rw [lookForKey_frame]
@[simp] theorem lookForKey_keyIn (s : State) (x : Reg) : (s.lookForKey x).keyIn = s.keyIn := by rw [lookForKey_frame]
@[simp] theorem lookForKey_randIn (s : State) (x : Reg) : (s.lookForKey x).randIn = s.randIn := by rw [lookForKey_frame]
@[simp] theorem lookForKey_inputs (s : State) (x : Reg) : (s.lookForKey x).inputs = s.inputs := by rw [lookForKey_frame]
@[simp] theorem lookForKey_tick (s : State) (x : Reg) : (s.lookForKey x).tick = s.tick := by rw [lookForKey_frame]

end Sys2Proof.Machine.Laws
end

