-- ==== Sys2Proof/Laws/Screen.lean ====
section
/-! SUPPORT. The Display Surface and the plotting of a list of pixels (R170 to R174, R176). -/

namespace Sys2Proof.Machine.Laws

/-- Setting one pixel of a screen. -/
theorem getElem_set_set (fb : Screen) (x px : Fin 64) (y py : Fin 32) (b : Bool) :
    (fb.set y.val (fb[y.val].set x.val b))[py.val][px.val] = if (px, py) = (x, y) then b else fb[py.val][px.val] := by
  by_cases hy : y = py
  · subst hy
    by_cases hx : x = px
    · subst hx; simp
    · have : ¬ x.val = px.val := fun e => hx (Fin.ext e)
      simp [this, Ne.symm hx]
  · have : ¬ y.val = py.val := fun e => hy (Fin.ext e)
    simp [this, Ne.symm hy]

/-- `Disp.xor` toggles by `v` at one pixel only (R172). -/
theorem pixel_dispXor (s : State) (x px : Fin 64) (y py : Fin 32) (v : Bool) :
    (s.dispXor x y v).pixel px py = if (px, py) = (x, y) then (s.pixel px py ^^ v) else s.pixel px py := by
  have h := getElem_set_set s.fb x px y py (s.pixel x y ^^ v)
  simp only [State.pixel, State.dispXor] at h ⊢
  rw [h]
  split
  next e => cases e; rfl
  next => rfl

@[simp] theorem pixel_dispClear (s : State) (x : Fin 64) (y : Fin 32) : s.dispClear.pixel x y = false := by
  simp [State.pixel, State.dispClear, Screen.allOff]

/-- Two screens with the same pixels are the same. -/
theorem screen_ext (s t : State) (h : ∀ x y, t.pixel x y = s.pixel x y) : t.fb = s.fb := by
  refine Vector.ext fun y hy => Vector.ext fun x hx => ?_
  exact h ⟨x, hx⟩ ⟨y, hy⟩

theorem plotPixel_snd (p : Bool × State) (q : Fin 64 × Fin 32) :
    (plotPixel p q).2 = ((p.2.emit (.get q.1 q.2)).dispXor q.1 q.2 true) := rfl

theorem plotPixel_fst (p : Bool × State) (q : Fin 64 × Fin 32) :
    (plotPixel p q).1 = (p.1 || p.2.pixel q.1 q.2) := rfl

theorem pixel_plotPixel (p : Bool × State) (q : Fin 64 × Fin 32) (x : Fin 64) (y : Fin 32) :
    (plotPixel p q).2.pixel x y = if (x, y) = q then !p.2.pixel x y else p.2.pixel x y := by
  obtain ⟨qx, qy⟩ := q
  rw [plotPixel_snd, pixel_dispXor]
  simp [State.pixel, State.emit]

/-- Plotting changes nothing but the pixels and the display output. -/
theorem foldl_plotPixel_frame (ps : List (Fin 64 × Fin 32)) (p : Bool × State) :
    (ps.foldl plotPixel p).2 =
      { p.2 with fb := (ps.foldl plotPixel p).2.fb, dispOut := (ps.foldl plotPixel p).2.dispOut } := by
  induction ps generalizing p with
  | nil => rfl
  | cons q ps ih => simpa [plotPixel_snd, State.dispXor, State.emit] using ih (plotPixel p q)

theorem plot_frame (s : State) (ps : List (Fin 64 × Fin 32)) :
    (s.plot ps).2 = { s with fb := (s.plot ps).2.fb, dispOut := (s.plot ps).2.dispOut } :=
  foldl_plotPixel_frame ps (false, s)

/-- Each pixel of a list without repeats is toggled once, no other pixel changes. -/
theorem foldl_plotPixel_pixel (ps : List (Fin 64 × Fin 32)) (hps : ps.Nodup) (p : Bool × State) (x : Fin 64) (y : Fin 32) :
    (ps.foldl plotPixel p).2.pixel x y = if (x, y) ∈ ps then !p.2.pixel x y else p.2.pixel x y := by
  induction ps generalizing p with
  | nil => simp
  | cons q ps ih =>
    obtain ⟨hq, hps⟩ := List.nodup_cons.1 hps
    rw [List.foldl_cons, ih hps, pixel_plotPixel]
    by_cases h1 : (x, y) = q
    · subst h1; simp [hq]
    · simp [h1]

/-- `hit` ends as: some plotted pixel was on (before the plot, for a list without repeats) (R176). -/
theorem foldl_plotPixel_hit (ps : List (Fin 64 × Fin 32)) (hps : ps.Nodup) (p : Bool × State) :
    (ps.foldl plotPixel p).1 = (p.1 || ps.any fun q => p.2.pixel q.1 q.2) := by
  induction ps generalizing p with
  | nil => simp
  | cons q ps ih =>
    obtain ⟨hq, hps⟩ := List.nodup_cons.1 hps
    rw [List.foldl_cons, ih hps, plotPixel_fst, List.any_cons, Bool.or_assoc]
    congr 2
    refine Bool.eq_iff_iff.2 ?_
    simp only [List.any_eq_true]
    refine exists_congr fun r => and_congr_right fun hr => ?_
    rw [pixel_plotPixel, if_neg (fun e => hq (by rw [← e]; exact hr))]

theorem plot_pixel (s : State) (ps : List (Fin 64 × Fin 32)) (hps : ps.Nodup) (x : Fin 64) (y : Fin 32) :
    (s.plot ps).2.pixel x y = if (x, y) ∈ ps then !s.pixel x y else s.pixel x y :=
  foldl_plotPixel_pixel ps hps (false, s) x y

theorem plot_hit (s : State) (ps : List (Fin 64 × Fin 32)) (hps : ps.Nodup) :
    (s.plot ps).1 = ps.any fun q => s.pixel q.1 q.2 := by
  rw [State.plot, foldl_plotPixel_hit ps hps (false, s), Bool.false_or]

/-- Plotting issues a get and an xor per pixel, in order (R176, R224). -/
theorem plot_dispOut (s : State) (ps : List (Fin 64 × Fin 32)) :
    (s.plot ps).2.dispOut = s.dispOut ++ ps.flatMap (fun q => [.get q.1 q.2, .xor q.1 q.2 true]) := by
  suffices h : ∀ p : Bool × State, (ps.foldl plotPixel p).2.dispOut =
      p.2.dispOut ++ ps.flatMap (fun q => [.get q.1 q.2, .xor q.1 q.2 true]) from h (false, s)
  induction ps with
  | nil => simp
  | cons q ps ih => intro p; simp [ih, plotPixel_snd]

/-- The draw changes pixels, display output and VF, nothing else (R176). -/
theorem draw_frame (s : State) (a b : Byte) (n : Nat) :
    s.draw a b n =
      { s with V := (s.draw a b n).V, fb := (s.draw a b n).fb, dispOut := (s.draw a b n).dispOut } := by
  have h := plot_frame s (s.spritePixels a b n)
  unfold State.draw
  rw [h]
  rfl

/-! `draw`, field by field -/

@[simp] theorem draw_I (s : State) (a b : Byte) (n : Nat) : (s.draw a b n).I = s.I := by rw [draw_frame]
@[simp] theorem draw_pc (s : State) (a b : Byte) (n : Nat) : (s.draw a b n).pc = s.pc := by rw [draw_frame]
@[simp] theorem draw_mem (s : State) (a b : Byte) (n : Nat) : (s.draw a b n).mem = s.mem := by rw [draw_frame]
@[simp] theorem draw_stack (s : State) (a b : Byte) (n : Nat) : (s.draw a b n).stack = s.stack := by rw [draw_frame]
@[simp] theorem draw_sp (s : State) (a b : Byte) (n : Nat) : (s.draw a b n).sp = s.sp := by rw [draw_frame]
@[simp] theorem draw_delay (s : State) (a b : Byte) (n : Nat) : (s.draw a b n).delay = s.delay := by rw [draw_frame]
@[simp] theorem draw_sound (s : State) (a b : Byte) (n : Nat) : (s.draw a b n).sound = s.sound := by rw [draw_frame]
@[simp] theorem draw_ir (s : State) (a b : Byte) (n : Nat) : (s.draw a b n).ir = s.ir := by rw [draw_frame]
@[simp] theorem draw_mode (s : State) (a b : Byte) (n : Nat) : (s.draw a b n).mode = s.mode := by rw [draw_frame]
@[simp] theorem draw_faultCause (s : State) (a b : Byte) (n : Nat) : (s.draw a b n).faultCause = s.faultCause := by rw [draw_frame]
@[simp] theorem draw_keyIn (s : State) (a b : Byte) (n : Nat) : (s.draw a b n).keyIn = s.keyIn := by rw [draw_frame]
@[simp] theorem draw_randIn (s : State) (a b : Byte) (n : Nat) : (s.draw a b n).randIn = s.randIn := by rw [draw_frame]
@[simp] theorem draw_inputs (s : State) (a b : Byte) (n : Nat) : (s.draw a b n).inputs = s.inputs := by rw [draw_frame]
@[simp] theorem draw_tick (s : State) (a b : Byte) (n : Nat) : (s.draw a b n).tick = s.tick := by rw [draw_frame]
@[simp] theorem draw_memRead (s : State) (a b : Byte) (n k : Nat) : (s.draw a b n).memRead k = s.memRead k := by
  rw [draw_frame]; rfl

/-- The draw writes `hit` to VF and no other register (R176). -/
@[simp] theorem draw_reg (s : State) (a b : Byte) (n : Nat) (r : Reg) :
    (s.draw a b n).reg r = if vf = r then flagByte (s.plot (s.spritePixels a b n)).1 else s.reg r := by
  show ((s.plot (s.spritePixels a b n)).2.setReg vf _).reg r = _
  rw [reg_setReg, plot_frame]
  rfl

/-- The draw's pixels are the plot's (R176). -/
theorem draw_pixel (s : State) (a b : Byte) (n : Nat) (x : Fin 64) (y : Fin 32) :
    (s.draw a b n).pixel x y = (s.plot (s.spritePixels a b n)).2.pixel x y := rfl

/-- The draw's commands: a get and an xor per plotted pixel, then one render (R176, R224). -/
theorem draw_dispOut (s : State) (a b : Byte) (n : Nat) :
    (s.draw a b n).dispOut =
      s.dispOut ++ (s.spritePixels a b n).flatMap (fun q => [.get q.1 q.2, .xor q.1 q.2 true]) ++ [.render] := by
  rw [← plot_dispOut]; rfl

end Sys2Proof.Machine.Laws
end

