-- ==== Sys2Proof/Laws/Step.lean ====
section
/-! SUPPORT. What a step can do, said once. -/

namespace Sys2Proof.Machine.Laws

/-- What every step outside FAULT does first: it samples the inputs and counts `delay` down (R68). -/
theorem beginStep_eq (s : State) :
    s.beginStep = { s with
      keyIn := s.nextInput.keys, randIn := s.nextInput.rand, inputs := s.inputs.tail, tick := s.tick + 1
      delay := if s.delay = 0 then 0 else s.delay - 1 } := rfl

@[simp] theorem beginStep_memRead (s : State) (a : Nat) : s.beginStep.memRead a = s.memRead a := rfl
@[simp] theorem beginStep_fetchWord (s : State) : s.beginStep.fetchWord = s.fetchWord := rfl
@[simp] theorem beginStep_reg (s : State) (r : Reg) : s.beginStep.reg r = s.reg r := rfl
@[simp] theorem beginStep_pixel (s : State) (x : Fin 64) (y : Fin 32) : s.beginStep.pixel x y = s.pixel x y := rfl
@[simp] theorem fetch_memRead (s : State) (a : Nat) : s.fetch.memRead a = s.memRead a := rfl
@[simp] theorem fetch_reg (s : State) (r : Reg) : s.fetch.reg r = s.reg r := rfl
@[simp] theorem fetch_pixel (s : State) (x : Fin 64) (y : Fin 32) : s.fetch.pixel x y = s.pixel x y := rfl

/-- The countdown in integers. -/
theorem countdown_delay_eq (s : State) : s.countdown.delay = countedDown s.delay := by
  simp only [countdown_delay, countedDown]
  generalize s.delay = d
  revert d; decide

/-- `Runs` in terms of the fetch. -/
theorem runs_iff (s : State) (i : Instr) : s.Runs i ↔ s.mode = .run ∧ decode s.fetchWord = .instr i := Iff.rfl

/-- A step runs at most one instruction (R68). -/
theorem runs_unique (s : State) (i j : Instr) (hi : s.Runs i) (hj : s.Runs j) : i = j :=
  Decoded.instr.inj (hi.2.symm.trans hj.2)

/-- A step that fetches an unrecognized word runs no instruction (R66). -/
theorem not_runs_of_unrecognized (s : State) (why : Unrecognized) (h : decode s.fetchWord = .unrecognized why) (i : Instr) :
    ¬ s.Runs i := fun hi => nomatch h.symm.trans hi.2

/-- Outside RUN no instruction runs (R68). -/
theorem not_runs_of_mode (s : State) (h : s.mode ≠ .run) (i : Instr) : ¬ s.Runs i := fun hi => h hi.1

/-- The mode after a look at the keys (R218). -/
theorem lookForKey_mode (s : State) (x : Reg) : (s.lookForKey x).mode = if s.keyIn = 0 then .awaitKey else .run := by
  rcases lookForKey_cases s x with ⟨h, e⟩ | ⟨k, h, e⟩
  · rw [e, if_pos h]
  · have hk : s.keyIn ≠ 0 := fun hz => by rw [(leastKey_eq_none _).2 hz] at h; cases h
    rw [e, if_neg hk]

theorem step_fault (s : State) (h : s.mode = .fault) : step s = .next s := by simp [step, h]

theorem step_awaitKey (s : State) (h : s.mode = .awaitKey) : step s = .next s.beginStep.awaitStep := by simp [step, h]

theorem step_runs (s : State) (i : Instr) (h : s.Runs i) : step s = exec i s.beginStep.fetch := by
  obtain ⟨hm, hd⟩ := h
  have hd' : decode s.beginStep.fetch.ir = .instr i := hd
  simp only [step, hm, State.runStep, hd']

theorem step_unrecognized (s : State) (why : Unrecognized) (hm : s.mode = .run)
    (hd : decode s.fetchWord = .unrecognized why) : step s = .next s.beginStep.fetch := by
  have hd' : decode s.beginStep.fetch.ir = .unrecognized why := hd
  simp only [step, hm, State.runStep, hd']

/-- A step, by cases: FAULT, waiting for a key, an instruction, an unrecognized word (R68). -/
theorem step_cases (s : State) :
    (s.mode = .fault ∧ step s = .next s) ∨
    (s.mode = .awaitKey ∧ step s = .next s.beginStep.awaitStep) ∨
    (∃ i, s.Runs i ∧ step s = exec i s.beginStep.fetch) ∨
    (∃ why, s.mode = .run ∧ decode s.fetchWord = .unrecognized why ∧ step s = .next s.beginStep.fetch) := by
  cases hm : s.mode with
  | fault => exact .inl ⟨rfl, step_fault s hm⟩
  | awaitKey => exact .inr (.inl ⟨rfl, step_awaitKey s hm⟩)
  | run =>
    cases hd : decode s.fetchWord with
    | instr i => exact .inr (.inr (.inl ⟨i, ⟨hm, hd⟩, step_runs s i ⟨hm, hd⟩⟩))
    | unrecognized why => exact .inr (.inr (.inr ⟨why, rfl, rfl, step_unrecognized s why hm hd⟩))

/-- A run of `k + 1` steps is a step and then `k` steps, on any machine. -/
theorem run_of_step (M : Host.Core) (k : Nat) (s t : M.State) (h : M.step s = .next t) : M.run (k + 1) s = M.run k t := by
  simp only [Host.Core.run, h]

/-- A run of `k + 1` steps of this machine. -/
theorem run_succ (k : Nat) (s t : State) (h : step s = .next t) : Sys2Proof.core.run (k + 1) s = Sys2Proof.core.run k t :=
  run_of_step Sys2Proof.core k s t h

end Sys2Proof.Machine.Laws
end

