-- ==== Sys2Proof/Tests/Slice0.lean ====
section
/-! SUPPORT. Small tests. Words and expected values are taken from spec/95_test_vectors.md (its vector is named) and from the
encodings of rule R65; the witnesses at the end show states and operands that meet the hypotheses of the statements. -/

namespace Sys2Proof.Tests

open Sys2Proof Sys2Proof.Machine Sys2Proof.Machine.Laws

/-! ### Helpers -/

/-- The state after reset with the word `w` at 0x0200, and one scripted sample: no key down, random byte 0 (the start state
of spec/95_test_vectors.md). -/
def placed (w : Nat) : State := { State.reset.withFetchWord 16 w with inputs := [⟨0, 0⟩] }

/-- The same with registers set, in order. -/
def placedWith (w : Nat) (rs : List (Reg × Byte)) : State := rs.foldl (fun s r => s.setReg r.1 r.2) (placed w)

/-- The same with another sample. -/
def placedIn (w : Nat) (rs : List (Reg × Byte)) (keys : BitVec 16) (rand : Byte) : State :=
  { placedWith w rs with inputs := [⟨keys, rand⟩] }

/-- The state after one step, if there is one. -/
def after (s : State) : Option State :=
  match step s with
  | .next t => some t
  | .fault _ => none
  | .refused _ => none

/-- One view of the state after one step. -/
def seen {α : Type} (s : State) (f : State → α) : Option α := (after s).map f

/-! ### Well-formedness: an ignored field that is not 0 is no canonical form (R67) -/

theorem test_wf_refuses_ignored_y :
    Instr.wf (.shr 3 5) = false ∧ Instr.wf (.shl 3 5) = false ∧ Instr.wf (.shr 3 0) = true ∧ Instr.wf (.shl 3 0) = true := by
  decide

theorem test_wf_refuses_ignored_nibble :
    Instr.wf (.skipEqReg 1 2 7) = false ∧ Instr.wf (.skipNeReg 1 2 15) = false ∧ Instr.wf (.skipEqReg 1 2 0) = true ∧
    Instr.wf (.skipNeReg 1 2 0) = true := by decide

/-! ### Decoding: a word for every row, written out from the formats of R62 and the map of R65 -/

theorem test_decode_zero : decode 0x00E0 = .instr .clearScreen ∧ decode 0x00EE = .instr .ret := by decide

theorem test_decode_transfer :
    decode 0x1ABC = .instr (.jump 0xABC) ∧ decode 0x2300 = .instr (.call 0x300) ∧
    decode 0xBFFF = .instr (.jumpOffset 0xFFF) := by decide

theorem test_decode_skips :
    decode 0x3310 = .instr (.skipEqImm 3 0x10) ∧ decode 0x4310 = .instr (.skipNeImm 3 0x10) ∧
    decode 0x512F = .instr (.skipEqReg 1 2 0xF) ∧ decode 0x9125 = .instr (.skipNeReg 1 2 5) ∧
    decode 0xE59E = .instr (.skipIfKeyDown 5) ∧ decode 0xE5A1 = .instr (.skipIfKeyUp 5) := by decide

theorem test_decode_immediate :
    decode 0x6F7B = .instr (.loadImm 15 0x7B) ∧ decode 0x7F20 = .instr (.addImm 15 0x20) ∧
    decode 0xC30F = .instr (.randomAnd 3 0x0F) := by decide

theorem test_decode_alu :
    decode 0x8120 = .instr (.loadReg 1 2) ∧ decode 0x8121 = .instr (.or 1 2) ∧ decode 0x8122 = .instr (.and 1 2) ∧
    decode 0x8123 = .instr (.xor 1 2) ∧ decode 0x8124 = .instr (.addReg 1 2) ∧ decode 0x8125 = .instr (.subReg 1 2) ∧
    decode 0x8AB6 = .instr (.shr 0xA 0xB) ∧ decode 0x8127 = .instr (.subnReg 1 2) ∧ decode 0x817E = .instr (.shl 1 7) := by
  decide

theorem test_decode_index_memory :
    decode 0xA2F0 = .instr (.loadIndex 0x2F0) ∧ decode 0xF21E = .instr (.addToIndex 2) ∧
    decode 0xF429 = .instr (.loadFontAddress 4) ∧ decode 0xF333 = .instr (.storeBcd 3) ∧
    decode 0xF155 = .instr (.storeBlock 1) ∧ decode 0xF165 = .instr (.loadBlock 1) := by decide

theorem test_decode_display_timers :
    decode 0xD125 = .instr (.drawSprite 1 2 5) ∧ decode 0xF207 = .instr (.readDelayTimer 2) ∧
    decode 0xF30A = .instr (.awaitKey 3) ∧ decode 0xF115 = .instr (.setDelayTimer 1) ∧
    decode 0xF118 = .instr (.setSoundTimer 1) := by decide

/-- Part 4 of spec/95_test_vectors.md: words that match no row. -/
theorem test_decode_unrecognized :
    decode 0x0000 = .unrecognized .zeroFamily ∧ decode 0x00E1 = .unrecognized .zeroFamily ∧
    decode 0x0123 = .unrecognized .zeroFamily ∧ decode 0x8008 = .unrecognized .aluFamily ∧
    decode 0x800F = .unrecognized .aluFamily ∧ decode 0xE09D = .unrecognized .keyFamily ∧
    decode 0xE0A2 = .unrecognized .keyFamily ∧ decode 0xF000 = .unrecognized .miscFamily ∧
    decode 0xF066 = .unrecognized .miscFamily ∧ decode 0xFFFF = .unrecognized .miscFamily := by decide

/-! ### Control transfer (section 2.1) -/

/-- C2. -/
theorem test_jump : seen (placed 0x1200) (·.pc) = some 0x0200 := by decide

/-- C4. -/
theorem test_call :
    seen (placed 0x2300) (fun t => (t.pc, t.sp.val, t.stack[0])) = some (0x0300, 1, 0x0202) := by decide

/-- C6. -/
theorem test_call_overflow :
    seen { placed 0x2300 with sp := 16 } (fun t => (t.mode, t.faultOut, t.pc, t.sp.val)) =
      some (.fault, 1, 0x0202, 16) := by decide

/-- C9: 16 bits kept. -/
theorem test_ret :
    seen { placed 0x00EE with sp := 1, stack := Vector.replicate 16 0x1234 } (fun t => (t.pc, t.sp.val, t.stack[0])) =
      some (0x1234, 0, 0x1234) := by decide

/-- C8. -/
theorem test_ret_underflow :
    seen (placed 0x00EE) (fun t => (t.mode, t.faultOut, t.pc, t.sp.val)) = some (.fault, 2, 0x0202, 0) := by decide

/-- C10, C11. -/
theorem test_skip_eq_imm :
    seen (placedWith 0x3310 [(3, 0x10)]) (·.pc) = some 0x0204 ∧ seen (placedWith 0x3310 [(3, 0x11)]) (·.pc) = some 0x0202 := by
  decide

/-- C12, C13. -/
theorem test_skip_ne_imm :
    seen (placedWith 0x4310 [(3, 0x10)]) (·.pc) = some 0x0202 ∧ seen (placedWith 0x4310 [(3, 0x11)]) (·.pc) = some 0x0204 := by
  decide

/-- C15, C16. -/
theorem test_skip_eq_reg :
    seen (placedWith 0x5120 [(1, 7), (2, 8)]) (·.pc) = some 0x0202 ∧
    seen (placedWith 0x512F [(1, 7), (2, 7)]) (·.pc) = some 0x0204 := by decide

/-- C19, C20. -/
theorem test_skip_ne_reg :
    seen (placedWith 0x9120 [(1, 7), (2, 7)]) (·.pc) = some 0x0202 ∧
    seen (placedWith 0x9125 [(1, 7), (2, 8)]) (·.pc) = some 0x0204 := by decide

/-- C22: not reduced to 12 bits. -/
theorem test_jump_offset : seen (placedWith 0xBFFF [(0, 0xFF)]) (·.pc) = some 0x10FE := by decide

/-- C23: a word fetched across the end of memory. -/
theorem test_fetch_wraps :
    seen (({ placed 0 with pc := 0x0FFF }.memWrite 0xFFF 0x60).memWrite 0x000 0x2A) (fun t => (t.reg 0, t.pc, t.ir)) =
      some (0x2A, 0x1001, 0x602A) := by decide

/-- C24: the advance wraps at 16 bits. -/
theorem test_pc_wraps :
    seen { placed 0 with pc := 0xFFFE } (fun t => (t.pc, t.ir)) = some (0x0000, 0x0000) := by decide

/-! ### Load, arithmetic, logic (section 2.2) -/

/-- A1. -/
theorem test_load_imm : seen (placed 0x6F7B) (·.reg 15) = some 0x7B := by decide

/-- A2, A4. -/
theorem test_add_imm :
    seen (placedWith 0x7001 [(0, 0xFF)]) (fun t => (t.reg 0, t.reg 15)) = some (0x00, 0x00) ∧
    seen (placedWith 0x7F20 [(15, 0xF0)]) (·.reg 15) = some 0x10 := by decide

/-- A5. -/
theorem test_load_reg : seen (placedWith 0x8120 [(2, 0x3C)]) (fun t => (t.reg 1, t.reg 2)) = some (0x3C, 0x3C) := by
  decide

/-- A6: VF is not written. -/
theorem test_or :
    seen (placedWith 0x8121 [(1, 0xF0), (2, 0x0F), (15, 0x55)]) (fun t => (t.reg 1, t.reg 15)) = some (0xFF, 0x55) := by
  decide

/-- A7. -/
theorem test_and : seen (placedWith 0x8122 [(1, 0xF3), (2, 0x3C)]) (·.reg 1) = some 0x30 := by decide

/-- A8. -/
theorem test_xor : seen (placedWith 0x8123 [(1, 0xFF), (2, 0x0F)]) (·.reg 1) = some 0xF0 := by decide

/-- The table of 2.2, line 4. -/
theorem test_add_reg :
    seen (placedWith 0x8124 [(1, 0xFF), (2, 0xFF)]) (fun t => (t.reg 1, t.reg 15)) = some (0xFE, 1) := by decide

/-- A11, A12. -/
theorem test_add_reg_vf :
    seen (placedWith 0x8F24 [(15, 0xF0), (2, 0x20)]) (·.reg 15) = some 0x10 ∧
    seen (placedWith 0x81F4 [(1, 0xF0), (15, 0x20)]) (fun t => (t.reg 1, t.reg 15)) = some (0x10, 1) := by decide

/-- The table of 2.2: equal operands, and a borrow. -/
theorem test_sub_reg :
    seen (placedWith 0x8125 [(1, 0x55), (2, 0x55)]) (fun t => (t.reg 1, t.reg 15)) = some (0x00, 0) ∧
    seen (placedWith 0x8125 [(1, 0x01), (2, 0xFF)]) (fun t => (t.reg 1, t.reg 15)) = some (0x02, 0) := by decide

/-- A13. -/
theorem test_sub_reg_vf : seen (placedWith 0x8F25 [(15, 0x05), (2, 0x03)]) (·.reg 15) = some 0x02 := by decide

/-- The table of 2.2: the subtrahend is the destination. -/
theorem test_subn_reg :
    seen (placedWith 0x8127 [(1, 0x01), (2, 0xFF)]) (fun t => (t.reg 1, t.reg 15)) = some (0xFE, 1) ∧
    seen (placedWith 0x8127 [(1, 0x7F), (2, 0x01)]) (fun t => (t.reg 1, t.reg 15)) = some (0x82, 0) := by decide

/-- A16, A18: Y ignored. -/
theorem test_shr :
    seen (placedWith 0x8F06 [(15, 0x02)]) (·.reg 15) = some 0x01 ∧
    seen (placedWith 0x8176 [(1, 0x05), (7, 0xFF)]) (fun t => (t.reg 1, t.reg 15, t.reg 7)) = some (0x02, 1, 0xFF) := by
  decide

/-- A17, A19: Y ignored. -/
theorem test_shl :
    seen (placedWith 0x8F0E [(15, 0x81)]) (·.reg 15) = some 0x02 ∧
    seen (placedWith 0x817E [(1, 0x81), (7, 0x00)]) (fun t => (t.reg 1, t.reg 15, t.reg 7)) = some (0x02, 1, 0x00) := by
  decide

/-- A20. -/
theorem test_random_and : seen (placedIn 0xC30F [] 0 0xA7) (·.reg 3) = some 0x07 := by decide

/-! ### Index and memory (section 2.3) -/

/-- M2. -/
theorem test_load_index : seen (placed 0xAFFF) (·.I) = some 0x0FFF := by decide

/-- M4, M5. -/
theorem test_add_to_index :
    seen { placedWith 0xF21E [(2, 0x01)] with I := 0x0FFF } (fun t => (t.I, t.reg 15)) = some (0x1000, 0) ∧
    seen { placedWith 0xF21E [(2, 0x02)] with I := 0xFFFF } (·.I) = some 0x0001 := by decide

/-- M8, M10. -/
theorem test_load_font_address :
    seen (placedWith 0xF429 [(4, 0x0F)]) (·.I) = some 0x009B ∧ seen (placedWith 0xF429 [(4, 0xFF)]) (·.I) = some 0x054B := by
  decide

/-- M19: across the end of memory. -/
theorem test_store_bcd :
    seen { placedWith 0xF333 [(3, 255)] with I := 0x0FFE }
      (fun t => ([t.memRead 0xFFE, t.memRead 0xFFF, t.memRead 0x000], t.I)) = some ([2, 5, 5], 0x0FFE) := by decide

/-- M21. -/
theorem test_store_block :
    seen { placedWith 0xF155 [(0, 0x11), (1, 0x22), (2, 0x33)] with I := 0x0400 }
      (fun t => ([t.memRead 0x400, t.memRead 0x401, t.memRead 0x402], t.I)) = some ([0x11, 0x22, 0x00], 0x0400) := by
  decide

/-- M27: the font is not protected. -/
theorem test_store_block_font :
    seen { placedWith 0xF055 [(0, 0xAA)] with I := 0x0050 } (fun t => (t.memRead 0x050, t.memRead 0x051)) =
      some (0xAA, 0x90) := by decide

/-- M26: V0 to V4 from the font, and V5 as it was. -/
theorem test_load_block :
    seen { placedWith 0xF465 [(5, 0x77)] with I := 0x0050 }
      (fun t => [t.reg 0, t.reg 1, t.reg 2, t.reg 3, t.reg 4, t.reg 5]) = some [0xF0, 0x90, 0x90, 0x90, 0xF0, 0x77] := by
  decide

/-! ### Display (section 2.4) -/

/-- D13. -/
theorem test_clear_screen :
    seen ((placed 0x00E0).dispXor 63 31 true) (fun t => (t.pixel 63 31, t.pixel 0 0, renders t.dispOut)) =
      some (false, false, 1) := by decide

/-- D7, D8: both wraps; no collision. -/
theorem test_draw_wraps :
    seen ({ placedWith 0xD121 [(1, 62), (2, 31)] with I := 0x0300 }.memWrite 0x300 0xF0)
      (fun t => ([t.pixel 62 31, t.pixel 63 31, t.pixel 0 31, t.pixel 1 31, t.pixel 2 31, t.pixel 0 0], t.reg 15)) =
      some ([true, true, true, true, false, false], 0) := by decide

/-- D5: an early hit stays. -/
theorem test_draw_collision :
    seen (({ placed 0xD121 with I := 0x0300 }.memWrite 0x300 0xFF).dispXor 0 0 true)
      (fun t => ([t.pixel 0 0, t.pixel 1 0, t.pixel 7 0, t.pixel 8 0], t.reg 15, renders t.dispOut)) =
      some ([false, true, true, false], 1, 1) := by decide

/-! ### Keys and timers (section 2.5) -/

/-- K2, K5. -/
theorem test_skip_if_key_down :
    seen (placedIn 0xE59E [(5, 0x07)] 0xFF7F 0) (·.pc) = some 0x0202 ∧
    seen (placedIn 0xE59E [(5, 0x17)] 0x0080 0) (·.pc) = some 0x0204 := by decide

/-- K3, K4. -/
theorem test_skip_if_key_up :
    seen (placedIn 0xE5A1 [(5, 0x07)] 0x0000 0) (·.pc) = some 0x0204 ∧
    seen (placedIn 0xE5A1 [(5, 0x07)] 0x0080 0) (·.pc) = some 0x0202 := by decide

/-- K7, K9. -/
theorem test_read_delay_timer :
    seen { placed 0xF207 with delay := 0x10 } (fun t => (t.delay, t.reg 2)) = some (0x0F, 0x0F) ∧
    seen { placed 0xF207 with delay := 0x01 } (fun t => (t.delay, t.reg 2)) = some (0x00, 0x00) := by decide

/-- K12, K13. -/
theorem test_await_key :
    seen (placedIn 0xF30A [(3, 0x77)] 0x0000 0) (fun t => (t.mode, t.pc, t.reg 3)) = some (.awaitKey, 0x0202, 0x77) ∧
    seen (placedIn 0xF30A [] 0x0010 0) (fun t => (t.mode, t.pc, t.reg 3)) = some (.run, 0x0202, 0x04) := by decide

/-- K14, K15: a waiting step does not fetch; the least of two keys. -/
theorem test_await_key_waiting :
    seen { placedIn 0x6005 [] 0x0000 0 with mode := .awaitKey, ir := 0xF30A, delay := 3 }
      (fun t => (t.mode, t.pc, t.ir, t.delay)) = some (.awaitKey, 0x0200, 0xF30A, 2) ∧
    seen { placedIn 0x6005 [] 0x0A00 0 with mode := .awaitKey, ir := 0xF30A, delay := 3 }
      (fun t => (t.mode, t.pc, t.reg 3, t.delay)) = some (.run, 0x0200, 0x09, 2) := by decide

/-- K10. -/
theorem test_set_delay_timer :
    seen { placedWith 0xF115 [(1, 0x0A)] with delay := 0x33 } (·.delay) = some 0x0A := by decide

/-- K11; a later step leaves it. -/
theorem test_set_sound_timer :
    seen (placedWith 0xF118 [(1, 0x3C)]) (·.sound) = some 0x3C ∧
    seen { placed 0x0000 with sound := 0x3C } (·.sound) = some 0x3C := by decide

/-- K17, K18. -/
theorem test_unrecognized_and_fault :
    seen { placed 0x0000 with delay := 5 } (fun t => (t.delay, t.pc)) = some (4, 0x0202) ∧
    after { placed 0x0000 with delay := 5, mode := .fault } = some { placed 0x0000 with delay := 5, mode := .fault } := by
  decide

/-- Parts of the host's question: the table's numbering of a word. -/
theorem test_decode_table_word : decodeTableWord 16 0xD125 = some (.drawSprite 1 2 5) ∧ decodeTableWord 16 0 = none := by
  decide

/-! ### Witnesses: states and operands that meet the hypotheses of the statements -/

/-- A step of a running instruction answers a next state. -/
theorem next_of_runs (s t : State) (i : Instr) (h : s.Runs i) (e : exec i s.beginStep.fetch = .next t) :
    ∃ u, step s = .next u := ⟨t, (step_runs s i h).trans e⟩

/-- No instruction but the one that runs is run. -/
theorem not_runs_other (s : State) (i j : Instr) (h : s.Runs i) (hne : j ≠ i) : ¬ s.Runs j :=
  fun hj => hne (runs_unique s j i hj h)

theorem runs_placed_load : (placed 0x6005).Runs (.loadImm 0 5) := ⟨by decide, by decide⟩

theorem witness_EncodingADecodedWord : decode 0x5001 = .instr (.skipEqReg 0 0 1) := by decide

/-- Both ends of three of the four lines of R66, and the word of zeroed memory. -/
theorem witness_UnrecognizedWordIsANoOp :
    IsNoOpWord 0x0000 ∧ IsNoOpWord 0x0FFF ∧ IsNoOpWord 0x8008 ∧ IsNoOpWord 0x8FFF ∧ IsNoOpWord 0xE000 ∧ IsNoOpWord 0xFFFF ∧
    (placed 0x0000).mode = .run ∧
    IsNoOpWord ((placed 0x0000).memRead (placed 0x0000).pc.toNat ++ (placed 0x0000).memRead ((placed 0x0000).pc.toNat + 1)) := by
  refine ⟨.inl ?_, .inl ?_, .inr (.inl ?_), .inr (.inl ?_), .inr (.inr (.inl ?_)), .inr (.inr (.inr ?_)), ?_, .inl ?_⟩ <;>
    decide

theorem witness_ResetGivesTheTable :
    fontBytes.length = 80 ∧ ([] : List Byte).length ≤ 3584 ∧ (List.replicate 3584 (0 : Byte)).length ≤ 3584 :=
  ⟨by decide, by decide, by rw [List.length_replicate]⟩

/-- A running state with a program byte in memory has the invariant, and its step answers a next state. -/
theorem witness_EveryStepKeepsTheInvariant : (placed 0x6005).Inv ∧ ∃ t, step (placed 0x6005) = .next t :=
  ⟨{ memory := by decide, cause := by decide, waiting := (fun h => nomatch h), overflow := (fun h => nomatch h),
     underflow := (fun h => nomatch h) }, next_of_runs _ _ _ runs_placed_load rfl⟩

/-- A waiting state and a faulted one have the invariant, so that each of its clauses is met with its premise true. -/
theorem witness_OutputsFollowTheState :
    State.Inv { placed 0 with mode := .awaitKey, ir := 0xF30A } ∧
    State.Inv { placed 0 with mode := .fault, ir := 0x2300, sp := 16, faultCause := .stackOverflow } ∧
    State.Inv { placed 0 with mode := .fault, ir := 0x00EE, faultCause := .stackUnderflow } :=
  ⟨{ memory := by decide, cause := by decide, waiting := fun _ => ⟨3, by decide⟩, overflow := (fun h => nomatch h),
     underflow := (fun h => nomatch h) },
   { memory := by decide, cause := by decide, waiting := (fun h => nomatch h),
     overflow := fun _ => ⟨rfl, 0x300, by decide⟩, underflow := (fun h => nomatch h) },
   { memory := by decide, cause := by decide, waiting := (fun h => nomatch h), overflow := (fun h => nomatch h),
     underflow := fun _ => ⟨by decide, by decide⟩ }⟩

theorem witness_StepRunsTheFetchedWord :
    ((placed 0x6005).mode = .run ∧ decode (placed 0x6005).fetchWord = .instr (.loadImm 0 5)) ∧
    ((placed 0x8008).mode = .run ∧ decode (placed 0x8008).fetchWord = .unrecognized .aluFamily) := by decide

theorem witness_StepBeginsWithSampleAndCountdown : (placed 0).inputs = [⟨0, 0⟩] ∧ State.reset.inputs = [] := by decide

theorem witness_PlacedWordIsFetched : decode (BitVec.ofNat 16 0xFF65) = .instr (.loadBlock 15) := by decide

theorem witness_FaultModeIsTerminal : State.mode { placed 0 with mode := .fault } = .fault := rfl

theorem witness_FaultEntryIsPrecise :
    (State.Runs { placed 0x2300 with sp := 16 } (.call 0x300) ∧ State.sp { placed 0x2300 with sp := 16 } = 16) ∧
    ((placed 0x00EE).Runs .ret ∧ (placed 0x00EE).sp = 0) :=
  ⟨⟨⟨by decide, by decide⟩, rfl⟩, ⟨⟨by decide, by decide +kernel⟩, by decide⟩⟩

theorem runs_full_call : State.Runs { placed 0x2300 with sp := 16 } (.call 0x300) := ⟨by decide, by decide⟩
theorem runs_empty_ret : (placed 0x00EE).Runs .ret := ⟨by decide, by decide⟩

/-- A step that faults and one that does not. -/
theorem witness_OnlyTheStackBoundsFault :
    (∃ t, step { placed 0x2300 with sp := 16 } = .next t) ∧ State.mode { placed 0x2300 with sp := 16 } ≠ .fault ∧
    (∃ t, step (placed 0x00EE) = .next t) ∧ (placed 0x00EE).mode ≠ .fault ∧
    (∃ t, step (placed 0x6005) = .next t) ∧ (placed 0x6005).mode ≠ .fault :=
  ⟨next_of_runs _ _ _ runs_full_call rfl, by decide, next_of_runs _ _ _ runs_empty_ret rfl, by decide,
   next_of_runs _ _ _ runs_placed_load rfl, by decide⟩

theorem runs_await : (placed 0xF30A).Runs (.awaitKey 3) := ⟨by decide, by decide⟩

/-- The step that starts a wait, and one that does not. -/
theorem witness_OnlyAwaitKeyWaits :
    ((∃ t, step (placed 0xF30A) = .next t) ∧ (placed 0xF30A).beginStep.keyIn = 0) ∧
    ∃ t, step (placed 0x6005) = .next t :=
  ⟨⟨next_of_runs _ _ _ runs_await rfl, by decide⟩, next_of_runs _ _ _ runs_placed_load rfl⟩

/-- The four rows of the state machine of R218, and the extreme keys. -/
theorem witness_AwaitKeyStateMachine :
    (0x8000 : BitVec 16) ≠ 0 ∧ IsLeastKey 0x8000 15 ∧ IsLeastKey 0xFFFF 0 ∧
    ((placed 0xF30A).Runs (.awaitKey 3) ∧ (placed 0xF30A).beginStep.keyIn = 0) ∧
    (State.Runs { placed 0xF30A with inputs := [⟨0x8000, 0⟩] } (.awaitKey 3) ∧
      (State.beginStep { placed 0xF30A with inputs := [⟨0x8000, 0⟩] }).keyIn = 0x8000) ∧
    (State.mode { placed 0 with mode := .awaitKey, ir := 0xF30A } = .awaitKey ∧
      (State.beginStep { placed 0 with mode := .awaitKey, ir := 0xF30A }).keyIn = 0) ∧
    (State.mode { placed 0 with mode := .awaitKey, ir := 0xF30A, inputs := [⟨0xFFFF, 0⟩] } = .awaitKey ∧
      (State.beginStep { placed 0 with mode := .awaitKey, ir := 0xF30A, inputs := [⟨0xFFFF, 0⟩] }).keyIn = 0xFFFF) :=
  ⟨by decide, by unfold IsLeastKey; decide, by unfold IsLeastKey; decide, ⟨runs_await, by decide⟩,
   ⟨⟨by decide, by decide⟩, by decide⟩, ⟨rfl, by decide⟩, ⟨rfl, by decide⟩⟩

theorem witness_WaitingChangesOnlyDelay :
    State.mode { placed 0 with mode := .awaitKey, inputs := [⟨0, 1⟩, ⟨0, 2⟩] } = .awaitKey ∧
    2 ≤ (State.inputs { placed 0 with mode := .awaitKey, inputs := [⟨0, 1⟩, ⟨0, 2⟩] }).length ∧
    ∀ p ∈ (State.inputs { placed 0 with mode := .awaitKey, inputs := [⟨0, 1⟩, ⟨0, 2⟩] }).take 2, p.keys = 0 := by decide

theorem witness_SelfJumpStaysPut : (placed 0x1200).Runs (.jump 0x200) ∧ (0x200 : Addr).toNat = (placed 0x1200).pc.toNat :=
  ⟨⟨by decide, by decide⟩, by decide⟩

theorem runs_set_delay : (placed 0xF115).Runs (.setDelayTimer 1) := ⟨by decide, by decide⟩
theorem runs_read_delay : (placed 0xF207).Runs (.readDelayTimer 2) := ⟨by decide, by decide⟩
theorem runs_set_sound : (placed 0xF118).Runs (.setSoundTimer 1) := ⟨by decide, by decide⟩

/-- The four clauses: FAULT, no write, a write, a read. -/
theorem witness_DelayCountsEveryStep :
    (∃ t, step { placed 0 with mode := .fault } = .next t) ∧
    ((∃ t, step (placed 0x6005) = .next t) ∧ (placed 0x6005).mode ≠ .fault ∧ ∀ x, ¬ (placed 0x6005).Runs (.setDelayTimer x)) ∧
    ((∃ t, step (placed 0xF115) = .next t) ∧ (placed 0xF115).Runs (.setDelayTimer 1)) ∧
    ((∃ t, step (placed 0xF207) = .next t) ∧ (placed 0xF207).Runs (.readDelayTimer 2)) :=
  ⟨⟨_, step_fault _ rfl⟩,
   ⟨next_of_runs _ _ _ runs_placed_load rfl, by decide, fun _ => not_runs_other _ _ _ runs_placed_load (by simp)⟩,
   ⟨next_of_runs _ _ _ runs_set_delay rfl, runs_set_delay⟩, ⟨next_of_runs _ _ _ runs_read_delay rfl, runs_read_delay⟩⟩

theorem witness_SoundChangesOnlyBySetSoundTimer :
    ((∃ t, step (placed 0xF118) = .next t) ∧ (placed 0xF118).Runs (.setSoundTimer 1)) ∧
    ((∃ t, step (placed 0x6005) = .next t) ∧ ∀ x, ¬ (placed 0x6005).Runs (.setSoundTimer x)) :=
  ⟨⟨next_of_runs _ _ _ runs_set_sound rfl, runs_set_sound⟩,
   ⟨next_of_runs _ _ _ runs_placed_load rfl, fun _ => not_runs_other _ _ _ runs_placed_load (by simp)⟩⟩

theorem runs_first_call : (placed 0x2300).Runs (.call 0x300) := ⟨by decide, by decide⟩
theorem runs_last_call : State.Runs { placed 0x2300 with sp := 15 } (.call 0x300) := ⟨by decide, by decide⟩
theorem runs_last_ret : State.Runs { placed 0x00EE with sp := 1 } .ret := ⟨by decide, by decide⟩
theorem runs_first_ret : State.Runs { placed 0x00EE with sp := 16 } .ret := ⟨by decide, by decide⟩

/-- The four clauses, pushes and pops at both ends of the stack. -/
theorem witness_OnlyCallPushesAndOnlyReturnPops :
    ((∃ t, step (placed 0x6005) = .next t) ∧ (∀ n, ¬ (placed 0x6005).Runs (.call n)) ∧ ¬ (placed 0x6005).Runs .ret) ∧
    ((∃ t, step (placed 0x2300) = .next t) ∧ (placed 0x2300).Runs (.call 0x300) ∧ (placed 0x2300).sp.val = (0 : Fin 16).val) ∧
    ((∃ t, step { placed 0x2300 with sp := 15 } = .next t) ∧ State.Runs { placed 0x2300 with sp := 15 } (.call 0x300) ∧
      (State.sp { placed 0x2300 with sp := 15 }).val = (15 : Fin 16).val) ∧
    ((∃ t, step { placed 0x00EE with sp := 1 } = .next t) ∧ State.Runs { placed 0x00EE with sp := 1 } .ret ∧
      (State.sp { placed 0x00EE with sp := 1 }).val = (0 : Fin 16).val + 1) ∧
    ((∃ t, step { placed 0x00EE with sp := 16 } = .next t) ∧ State.Runs { placed 0x00EE with sp := 16 } .ret ∧
      (State.sp { placed 0x00EE with sp := 16 }).val = (15 : Fin 16).val + 1) :=
  ⟨⟨next_of_runs _ _ _ runs_placed_load rfl, fun _ => not_runs_other _ _ _ runs_placed_load (by simp),
    not_runs_other _ _ _ runs_placed_load (by simp)⟩,
   ⟨next_of_runs _ _ _ runs_first_call rfl, runs_first_call, by decide⟩,
   ⟨next_of_runs _ _ _ runs_last_call rfl, runs_last_call, by decide⟩,
   ⟨next_of_runs _ _ _ runs_last_ret rfl, runs_last_ret, by decide⟩,
   ⟨next_of_runs _ _ _ runs_first_ret rfl, runs_first_ret, by decide⟩⟩

theorem witness_IndexChangesOnlyByIndexInstructions :
    (∃ t, step (placed 0x6005) = .next t) ∧ (∀ n, ¬ (placed 0x6005).Runs (.loadIndex n)) ∧
    (∀ x, ¬ (placed 0x6005).Runs (.addToIndex x)) ∧ ∀ x, ¬ (placed 0x6005).Runs (.loadFontAddress x) :=
  ⟨next_of_runs _ _ _ runs_placed_load rfl, fun _ => not_runs_other _ _ _ runs_placed_load (by simp),
   fun _ => not_runs_other _ _ _ runs_placed_load (by simp), fun _ => not_runs_other _ _ _ runs_placed_load (by simp)⟩

theorem witness_MemoryChangesOnlyByTheTwoStores :
    (∃ t, step (placed 0x6005) = .next t) ∧ (∀ x, ¬ (placed 0x6005).Runs (.storeBcd x)) ∧
    ∀ x, ¬ (placed 0x6005).Runs (.storeBlock x) :=
  ⟨next_of_runs _ _ _ runs_placed_load rfl, fun _ => not_runs_other _ _ _ runs_placed_load (by simp),
   fun _ => not_runs_other _ _ _ runs_placed_load (by simp)⟩

theorem witness_DisplayChangesOnlyByDisplayInstructions :
    (∃ t, step (placed 0x6005) = .next t) ∧ ¬ (placed 0x6005).Runs .clearScreen ∧
    ∀ x y n, ¬ (placed 0x6005).Runs (.drawSprite x y n) :=
  ⟨next_of_runs _ _ _ runs_placed_load rfl, not_runs_other _ _ _ runs_placed_load (by simp),
   fun _ _ _ => not_runs_other _ _ _ runs_placed_load (by simp)⟩

/-- A running instruction that does not write V15, and a wait for V3 seen from V15. -/
theorem witness_RegistersChangeOnlyAsTheTableSays :
    ((∃ t, step (placed 0x6005) = .next t) ∧ (∀ i, (placed 0x6005).Runs i → ¬ MayWrite i 15) ∧
      ((placed 0x6005).mode = .awaitKey → (15 : Reg) ≠ xField (placed 0x6005).ir)) ∧
    ((∃ t, step { placed 0 with mode := .awaitKey, ir := 0xF30A } = .next t) ∧
      (∀ i, State.Runs { placed 0 with mode := .awaitKey, ir := 0xF30A } i → ¬ MayWrite i 15) ∧
      (State.mode { placed 0 with mode := .awaitKey, ir := 0xF30A } = .awaitKey →
        (15 : Reg) ≠ xField (State.ir { placed 0 with mode := .awaitKey, ir := 0xF30A }))) :=
  ⟨⟨next_of_runs _ _ _ runs_placed_load rfl,
    fun i hi => by rw [runs_unique _ _ _ hi runs_placed_load]; simp [MayWrite], fun h => nomatch h⟩,
   ⟨⟨_, step_awaitKey _ rfl⟩, fun i hi => absurd hi.1 (by simp), fun _ => by decide⟩⟩

/-- The three clauses: not RUN, no transfer, a transfer. -/
theorem witness_OnlyTransfersAndSkipsMovePc :
    ((∃ t, step { placed 0 with mode := .fault } = .next t) ∧ State.mode { placed 0 with mode := .fault } ≠ .run) ∧
    ((∃ t, step (placed 0x6005) = .next t) ∧ (placed 0x6005).mode = .run ∧
      ∀ i, (placed 0x6005).Runs i → MovesPc i = false) ∧
    ((∃ t, step (placed 0x2300) = .next t) ∧ (placed 0x2300).Runs (.call 0x300) ∧ MovesPc (.call 0x300) = true) :=
  ⟨⟨⟨_, step_fault _ rfl⟩, by simp⟩,
   ⟨next_of_runs _ _ _ runs_placed_load rfl, by decide, fun i hi => by rw [runs_unique _ _ _ hi runs_placed_load]; rfl⟩,
   ⟨next_of_runs _ _ _ runs_first_call rfl, runs_first_call, rfl⟩⟩

theorem witness_InputsReachOnlyTheirReaders :
    ReadsInputs (.drawSprite 1 2 5) = false ∧ ∃ t, exec (.drawSprite 1 2 5) State.reset = .next t := ⟨rfl, _, rfl⟩

theorem witness_ReturnPopsItsAddress :
    (State.sp { placed 0 with sp := 1 }).val = (0 : Fin 16).val + 1 ∧
    (State.sp { placed 0 with sp := 16 }).val = (15 : Fin 16).val + 1 ∧ (placed 0).sp = 0 := by decide

theorem witness_CallPushesAndJumps :
    (placed 0).sp.val = (0 : Fin 16).val ∧ (State.sp { placed 0 with sp := 15 }).val = (15 : Fin 16).val ∧
    State.sp { placed 0 with sp := 16 } = 16 := by decide

/-- The key clause, at the last key number. -/
theorem witness_SkipsMovePastOneInstruction : ((placedWith 0 [(5, 15)]).reg 5).toNat < 16 := by decide

/-- The last call that fits, and a state that differs from the one after it in more than the stack. -/
theorem witness_ReturnUndoesCall :
    (State.sp { placed 0 with sp := 15 }).val < 16 ∧
    ∃ t u : State, exec (.call 0x300) { placed 0 with sp := 15 } = .next t ∧ u.stack = t.stack ∧ u.sp = t.sp ∧ u.sound ≠ t.sound :=
  ⟨by decide, (State.push { placed 0 with sp := 15 } 0x0200 (by decide)).setPc 0x0300,
   ((State.push { placed 0 with sp := 15 } 0x0200 (by decide)).setPc 0x0300).setSound 1, rfl, rfl, rfl, by decide⟩

/-- Both ends of both encodings. -/
theorem witness_LoadImmAndAddImm :
    (0x6000 : Word) &&& 0xF000 = 0x6000 ∧ (0x6FFF : Word) &&& 0xF000 = 0x6000 ∧
    (0x7000 : Word) &&& 0xF000 = 0x7000 ∧ (0x7FFF : Word) &&& 0xF000 = 0x7000 := by decide

/-- Equal operands, the smallest minuend with the largest subtrahend, and X = Y = 15. -/
theorem witness_ExactResultsAndFlags :
    (255 = ((placedWith 0 [(14, 255), (0, 255)]).reg 14).toNat ∧ 255 = ((placedWith 0 [(14, 255), (0, 255)]).reg 0).toNat) ∧
    (0 = ((placedWith 0 [(14, 0), (0, 255)]).reg 14).toNat ∧ 255 = ((placedWith 0 [(14, 0), (0, 255)]).reg 0).toNat) ∧
    (0x81 = ((placedWith 0 [(15, 0x81)]).reg 15).toNat ∧ 0x81 = ((placedWith 0 [(15, 0x81)]).reg 15).toNat) := by
  decide

/-- Beside every state there is another with the same memory and index register. -/
theorem same_memory_other_state (t : State) : ∃ u : State, u.mem = t.mem ∧ u.I = t.I ∧ u.sound ≠ t.sound :=
  ⟨t.setSound (t.sound + 1), rfl, rfl, by
    show t.sound + 1 ≠ t.sound
    generalize t.sound = b
    revert b; decide⟩

theorem witness_LoadBlockUndoesStoreBlock :
    ∃ t u : State, exec (.storeBlock 15) State.reset = .next t ∧ u.mem = t.mem ∧ u.I = t.I ∧ u.sound ≠ t.sound :=
  match same_memory_other_state (State.reset.storeBytes (State.reset.ea 0) (State.reset.blockBytes 15)) with
  | ⟨u, h⟩ => ⟨_, u, rfl, h⟩

/-- P6 of spec/95_test_vectors.md at its fourth instruction. -/
theorem witness_StoredInstructionRunsNext :
    State.Runs { placedWith 0xF155 [(0, 0x70), (1, 0xFF)] with I := 0x0202 } (.storeBlock 1) ∧ 1 ≤ (1 : Reg).val ∧
    (0x0202 : Word).toNat % 4096 = ((placed 0xF155).pc.toNat + 2) % 4096 ∧
    decode ((0x70 : Byte) ++ (0xFF : Byte)) = .instr (.addImm 0 0xFF) :=
  ⟨⟨by decide, by decide⟩, by decide, by decide, by decide⟩

/-- The sprite of glyph 0 at (62, 31): a covered pixel across both wraps, and one that is not covered. -/
theorem covers_wrapped : State.Covers { State.reset with I := 0x0050 } 62 31 5 1 3 :=
  ⟨4, 3, by decide, by decide, by decide, by decide, by decide⟩

theorem not_covers_far : ¬ State.Covers { State.reset with I := 0x0050 } 62 31 5 10 3 := by
  rintro ⟨r, c, -, hc, -, h, -⟩
  have h' : 10 = (62 + c) % 64 := h
  omega

/-- The clauses of the draw: covered and not covered, a covered pixel on, all covered pixels off. -/
theorem witness_DrawSpriteTogglesAndReportsCollision :
    State.Covers { State.reset with I := 0x0050 } 62 31 5 1 3 ∧ ¬ State.Covers { State.reset with I := 0x0050 } 62 31 5 10 3 ∧
    (State.Covers (State.dispXor { State.reset with I := 0x0050 } 1 3 true) 62 31 5 1 3 ∧
      (State.dispXor { State.reset with I := 0x0050 } 1 3 true).pixel 1 3 = true) ∧
    ∀ px py, State.Covers { State.reset with I := 0x0050 } 62 31 5 px py →
      State.pixel { State.reset with I := 0x0050 } px py = false :=
  ⟨covers_wrapped, not_covers_far, ⟨covers_wrapped, by decide⟩, fun px py _ => by
    show (Screen.allOff[py.val])[px.val] = false
    simp [Screen.allOff]⟩

/-- Coordinates in V1, V2, and a clear region. -/
theorem witness_DrawingTwiceRestoresTheDisplay :
    (1 : Reg) ≠ 15 ∧ (14 : Reg) ≠ 15 ∧ ∀ px py, State.reset.Covers (State.reset.reg 1) (State.reset.reg 14) 15 px py →
      State.reset.pixel px py = false :=
  ⟨by decide, by decide, fun px py _ => by
    show (Screen.allOff[py.val])[px.val] = false
    simp [Screen.allOff]⟩

theorem witness_AwaitKeyLooksOnce :
    (State.reset.mode = .run ∧ State.reset.keyIn = 0) ∧ (IsLeastKey 0x8000 15 ∧ IsLeastKey 0xFFFF 0) :=
  ⟨by decide, by unfold IsLeastKey; decide⟩

end Sys2Proof.Tests
end

section
/-! Noninterference of the inputs of a step (R4, R131, R190 to R193, R222): putting another key sample and another random
byte into a state commutes with every instruction but the four that look at them. -/

namespace Sys2Proof.Machine.Laws

/-- The state with another key sample and another random byte; everything else stays (log 1). -/
def withInputs (keys : BitVec 16) (rand : Byte) (s : State) : State := { s with keyIn := keys, randIn := rand }

variable (keys : BitVec 16) (rand : Byte) (s : State)

/-! The operations that loop: each turn of the loop commutes with the exchange of the inputs, so the whole loop does. -/

theorem storeBytes_withInputs (base : Nat) (bs : List Byte) :
    (withInputs keys rand s).storeBytes base bs = withInputs keys rand (s.storeBytes base bs) := by
  induction bs generalizing s base with
  | nil => rfl
  | cons b bs ih => exact ih (s.memWrite base b) (base + 1)

theorem loadRegs_withInputs (rs : List Reg) :
    (withInputs keys rand s).loadRegs rs = withInputs keys rand (s.loadRegs rs) :=
  List.foldl_hom (withInputs keys rand) fun _ _ => rfl

theorem plot_withInputs (ps : List (Fin 64 × Fin 32)) :
    (withInputs keys rand s).plot ps = Prod.map id (withInputs keys rand) (s.plot ps) := by
  have hturn (p : Bool × State) (q : Fin 64 × Fin 32) :
      plotPixel (Prod.map id (withInputs keys rand) p) q = Prod.map id (withInputs keys rand) (plotPixel p q) := rfl
  show ps.foldl plotPixel (Prod.map id (withInputs keys rand) (false, s)) = _
  exact List.foldl_hom (Prod.map id (withInputs keys rand)) hturn

theorem draw_withInputs (a b : Byte) (n : Nat) :
    (withInputs keys rand s).draw a b n = withInputs keys rand (s.draw a b n) := by
  have hpixels : (withInputs keys rand s).spritePixels a b n = s.spritePixels a b n := rfl
  simp only [State.draw, hpixels, plot_withInputs]
  rfl

/-- Every instruction that does not read the inputs commutes with exchanging them. -/
theorem exec_withInputs (i : Instr) (t : State) (hi : ReadsInputs i = false) (h : exec i s = .next t) :
    exec i (withInputs keys rand s) = .next (withInputs keys rand t) := by
  cases i with
  | randomAnd | skipIfKeyDown | skipIfKeyUp | awaitKey => cases hi
  -- The stack decides between transfer and fault, and it is the same in both states.
  | ret =>
    rcases exec_ret_cases s with ⟨hsp, hs⟩ | ⟨hsp, hs⟩ <;> cases hs.symm.trans h
    · exact congrArg _ (dif_pos hsp)
    · exact congrArg _ (dif_neg (show ¬ 0 < s.sp.val by omega))
  | call nnn =>
    rcases exec_call_cases nnn s with ⟨hsp, hs⟩ | ⟨hsp, hs⟩ <;> cases hs.symm.trans h
    · exact congrArg _ (dif_pos hsp)
    · exact congrArg _ (dif_neg (show ¬ s.sp.val < 16 by omega))
  | storeBcd x => cases h; exact congrArg _ (storeBytes_withInputs keys rand s _ _)
  | storeBlock x => cases h; exact congrArg _ (storeBytes_withInputs keys rand s _ _)
  | loadBlock x => cases h; exact congrArg _ (loadRegs_withInputs keys rand s _)
  | drawSprite x y n => cases h; exact congrArg _ (draw_withInputs keys rand s _ _ _)
  -- The others are single updates of other fields, with values read from other fields.
  | clearScreen | jump | jumpOffset | skipEqImm | skipNeImm | skipEqReg | skipNeReg | loadImm | addImm | loadReg | or | and
  | xor | addReg | subReg | subnReg | shr | shl | loadIndex | addToIndex | loadFontAddress | readDelayTimer | setDelayTimer
  | setSoundTimer => cases h; rfl

/-- Settles O32: by cases on the instruction, exchanging the inputs commutes with every one that does not read them. -/
theorem inputsReachOnlyTheirReaders : Obligations.InputsReachOnlyTheirReaders :=
  fun i s t keys rand hi h => exec_withInputs keys rand s i t hi h

end Sys2Proof.Machine.Laws
end

section
/-! What an instruction can do to the state, said once: by the part of the state it reaches (R10 to R23). -/

namespace Sys2Proof.Machine.Laws

/-- The instructions that can leave mode RUN: the two that reach the stack bounds, and await-key (R211, R218). -/
def LeavesRun : Instr → Bool
  | .ret | .call _ | .awaitKey _ => true
  | _ => false

/-- From `s`, the instruction can leave this state: one case per part of the state that instructions reach. The general
registers a case may write are those of the table of R10 (`MayWrite`); every case but `regs` names the whole next state. -/
inductive Effect (s : State) : Instr → State → Prop
  | regs {i : Instr} (v : Vector Byte 16) (hmode : LeavesRun i = false) (hpc : MovesPc i = false)
      (hreg : ∀ r : Reg, ¬ MayWrite i r → v[r.val] = s.reg r) : Effect s i { s with V := v }
  | look (x : Reg) : Effect s (.awaitKey x) (s.lookForKey x)
  | skip {i : Instr} (c : Bool) (hmode : LeavesRun i = false) (hpc : MovesPc i = true) : Effect s i (s.skipIf c)
  | jump (nnn : Addr) : Effect s (.jump nnn) (s.setPc (zextAddr nnn))
  | jumpOffset (nnn : Addr) : Effect s (.jumpOffset nnn) (s.setPc (zextByte (s.reg 0) + zextAddr nnn))
  | push (nnn : Addr) (h : s.sp.val < 16) : Effect s (.call nnn) ((s.push s.pc h).setPc (zextAddr nnn))
  | overflow (nnn : Addr) (h : s.sp = 16) : Effect s (.call nnn) (s.raise .stackOverflow)
  | pop (h : 0 < s.sp.val) : Effect s .ret ((s.pop h).setPc (s.top h))
  | underflow (h : s.sp = 0) : Effect s .ret (s.raise .stackUnderflow)
  | loadIndex (nnn : Addr) : Effect s (.loadIndex nnn) (s.setI (zextAddr nnn))
  | addToIndex (x : Reg) : Effect s (.addToIndex x) (s.setI (s.I + zextByte (s.reg x)))
  | loadFontAddress (x : Reg) : Effect s (.loadFontAddress x) (s.setI (fontAddress (s.reg x)))
  | storeBcd (x : Reg) : Effect s (.storeBcd x) (s.storeBytes (s.ea 0) (bcdDigits (s.reg x)))
  | storeBlock (x : Reg) : Effect s (.storeBlock x) (s.storeBytes (s.ea 0) (s.blockBytes x))
  | setDelay (x : Reg) : Effect s (.setDelayTimer x) (s.setDelay (s.reg x))
  | setSound (x : Reg) : Effect s (.setSoundTimer x) (s.setSound (s.reg x))
  | clear : Effect s .clearScreen s.dispClear
  | draw (x y : Reg) (n : Nibble) : Effect s (.drawSprite x y n) (s.draw (s.reg x) (s.reg y) n.toNat)

/-- One write of a register the instruction may write is an effect on registers. -/
theorem effect_setReg {s : State} {i : Instr} (x : Reg) (v : Byte) (hmode : LeavesRun i = false)
    (hpc : MovesPc i = false) (hx : MayWrite i x) : Effect s i (s.setReg x v) :=
  .regs _ hmode hpc fun r hr => by
    have hne : x ≠ r := fun e => hr (e ▸ hx)
    exact (reg_setReg s x v r).trans (if_neg hne)

/-- A flag and a result are an effect on registers when the instruction may write both (R28, R133). -/
theorem effect_setFlagThenReg {s : State} {i : Instr} (f : Byte) (x : Reg) (v : Byte) (hmode : LeavesRun i = false)
    (hpc : MovesPc i = false) (hi : ∀ r, MayWrite i r ↔ r = x ∨ r = vf) : Effect s i (s.setFlagThenReg f x v) :=
  .regs _ hmode hpc fun r hr => by
    have hne : ¬ (r = x ∨ r = vf) := fun e => hr ((hi r).2 e)
    have hx : x ≠ r := fun e => hne (.inl e.symm)
    have hf : vf ≠ r := fun e => hne (.inr e.symm)
    exact (setFlagThenReg_reg s f x v r).trans (by rw [if_neg hx, if_neg hf])

/-- A load of registers up to X is an effect on registers (R155). -/
theorem effect_loadRegs {s : State} (x : Reg) : Effect s (.loadBlock x) (s.loadRegs (regsUpTo x)) := by
  rw [loadRegs_frame]
  refine .regs _ rfl rfl fun r hr => ?_
  have hx : r ∉ regsUpTo x := fun h => hr ((mem_regsUpTo x r).1 h)
  exact (loadRegs_reg s (regsUpTo x) r).trans (if_neg hx)

/-- Every instruction has one of the effects. -/
theorem effect_of_exec {i : Instr} {s t : State} (h : exec i s = .next t) : Effect s i t := by
  cases i with
  | loadImm x | addImm x | loadReg x | or x | and x | xor x | randomAnd x | readDelayTimer x =>
    cases h; exact effect_setReg x _ rfl rfl rfl
  | addReg x | subReg x | shr x | subnReg x | shl x =>
    cases h; exact effect_setFlagThenReg _ x _ rfl rfl fun _ => Iff.rfl
  | loadBlock x => cases h; exact effect_loadRegs x
  | skipEqImm | skipNeImm | skipEqReg | skipNeReg | skipIfKeyDown | skipIfKeyUp => cases h; exact .skip _ rfl rfl
  | call nnn =>
    rcases exec_call_cases nnn s with ⟨hsp, hs⟩ | ⟨hsp, hs⟩ <;> cases hs.symm.trans h
    · exact .push nnn hsp
    · exact .overflow nnn (Fin.ext hsp)
  | ret =>
    rcases exec_ret_cases s with ⟨hsp, hs⟩ | ⟨hsp, hs⟩ <;> cases hs.symm.trans h
    · exact .pop hsp
    · exact .underflow (Fin.ext hsp)
  | awaitKey x => cases h; exact .look x
  | jump nnn => cases h; exact .jump nnn
  | jumpOffset nnn => cases h; exact .jumpOffset nnn
  | loadIndex nnn => cases h; exact .loadIndex nnn
  | addToIndex x => cases h; exact .addToIndex x
  | loadFontAddress x => cases h; exact .loadFontAddress x
  | storeBcd x => cases h; exact .storeBcd x
  | storeBlock x => cases h; exact .storeBlock x
  | setDelayTimer x => cases h; exact .setDelay x
  | setSoundTimer x => cases h; exact .setSound x
  | clearScreen => cases h; exact .clear
  | drawSprite x y n => cases h; exact .draw x y n

/-! ### The parts of the state an effect leaves alone -/

variable {i : Instr} {s t : State}

theorem Effect.sound (h : Effect s i t) (hi : ∀ x, i ≠ .setSoundTimer x) : t.sound = s.sound := by
  cases h with
  | setSound x => exact absurd rfl (hi x)
  | _ => simp

theorem Effect.delay (h : Effect s i t) (hi : ∀ x, i ≠ .setDelayTimer x) : t.delay = s.delay := by
  cases h with
  | setDelay x => exact absurd rfl (hi x)
  | _ => simp

theorem Effect.index (h : Effect s i t) (hload : ∀ nnn, i ≠ .loadIndex nnn) (hadd : ∀ x, i ≠ .addToIndex x)
    (hfont : ∀ x, i ≠ .loadFontAddress x) : t.I = s.I := by
  cases h with
  | loadIndex nnn => exact absurd rfl (hload nnn)
  | addToIndex x => exact absurd rfl (hadd x)
  | loadFontAddress x => exact absurd rfl (hfont x)
  | _ => simp

theorem Effect.mem (h : Effect s i t) (hbcd : ∀ x, i ≠ .storeBcd x) (hblock : ∀ x, i ≠ .storeBlock x) :
    t.mem = s.mem := by
  cases h with
  | storeBcd x => exact absurd rfl (hbcd x)
  | storeBlock x => exact absurd rfl (hblock x)
  | _ => simp

/-- The canonical form of memory is kept (log 20). -/
theorem Effect.mem_wf (h : Effect s i t) (hs : Memory.wf s.mem) : Memory.wf t.mem := by
  cases h with
  | storeBcd x | storeBlock x => exact storeBytes_wf s _ _ hs
  | _ => simpa using hs

theorem Effect.display (h : Effect s i t) (hclear : i ≠ .clearScreen) (hdraw : ∀ x y n, i ≠ .drawSprite x y n) :
    t.fb = s.fb ∧ t.dispOut = s.dispOut := by
  cases h with
  | clear => exact absurd rfl hclear
  | draw x y n => exact absurd rfl (hdraw x y n)
  | _ => simp

theorem Effect.stack (h : Effect s i t) (hi : ∀ nnn, i ≠ .call nnn) : t.stack = s.stack := by
  cases h with
  | push nnn => exact absurd rfl (hi nnn)
  | _ => simp

theorem Effect.sp_le (h : Effect s i t) (hi : ∀ nnn, i ≠ .call nnn) : t.sp ≤ s.sp := by
  cases h with
  | push nnn => exact absurd rfl (hi nnn)
  | pop hsp => exact Nat.sub_le s.sp.val 1
  | _ => simp

theorem Effect.le_sp (h : Effect s i t) (hi : i ≠ .ret) : s.sp ≤ t.sp := by
  cases h with
  | push nnn hsp => exact Nat.le_succ s.sp.val
  | pop => exact absurd rfl hi
  | _ => simp

/-- A look at the keys for `x` writes no register but `x` (R193). -/
theorem lookForKey_reg_of_ne (s : State) {x r : Reg} (h : r ≠ x) : (s.lookForKey x).reg r = s.reg r := by
  rcases lookForKey_cases s x with ⟨-, e⟩ | ⟨k, -, e⟩
  · rw [e]; rfl
  · rw [e]; exact (reg_setReg s x (keyByte k) r).trans (if_neg h.symm)

theorem Effect.reg (h : Effect s i t) {r : Reg} (hr : ¬ MayWrite i r) : t.reg r = s.reg r := by
  cases h with
  | regs v hmode hpc hreg => exact hreg r hr
  | look x => exact lookForKey_reg_of_ne s hr
  | draw x y n => rw [draw_reg, if_neg (Ne.symm hr)]
  | _ => exact reg_congr _ _ (by simp) r

theorem Effect.pc_of_not_movesPc (h : Effect s i t) (hi : MovesPc i = false) : t.pc = s.pc := by
  cases h with
  | skip c hmode hpc => exact absurd (hi.symm.trans hpc) Bool.false_ne_true
  | jump | jumpOffset | push | overflow | pop | underflow => cases hi
  | _ => simp

/-- `pc` after the fetch is kept or advanced once more, but by the four transfers (R14). -/
theorem Effect.pc_cases (h : Effect s i t) :
    t.pc = s.pc ∨ t.pc = s.pc + 2 ∨ i = .ret ∨ ∃ nnn, i = .jump nnn ∨ i = .call nnn ∨ i = .jumpOffset nnn := by
  cases h with
  | skip c => cases c <;> simp
  | _ => simp

/-! ### The mode -/

theorem ne_of_not_leavesRun (h : LeavesRun i = false) :
    i ≠ .ret ∧ (∀ nnn, i ≠ .call nnn) ∧ ∀ x, i ≠ .awaitKey x := by
  refine ⟨?_, fun nnn => ?_, fun x => ?_⟩ <;> rintro rfl <;> cases h

/-- An instruction stops the engine iff it is a call with sixteen addresses held or a return with none (R211). -/
theorem Effect.mode_fault_iff (h : Effect s i t) (hs : s.mode = .run) :
    t.mode = .fault ↔ (∃ nnn, i = .call nnn ∧ s.sp = 16) ∨ (i = .ret ∧ s.sp = 0) := by
  cases h with
  | regs _ hmode | skip _ hmode =>
    obtain ⟨hret, hcall, -⟩ := ne_of_not_leavesRun hmode
    simp [hs, hret, hcall]
  | push nnn hsp =>
    have hne : s.sp ≠ 16 := fun e => by simp [e] at hsp
    simp [hs, hne]
  | pop hsp =>
    have hne : s.sp ≠ 0 := fun e => by simp [e] at hsp
    simp [hs, hne]
  | overflow nnn hsp | underflow hsp => simp [hsp]
  | look x => rw [lookForKey_mode]; split <;> simp
  | _ => simp [hs]

/-- An instruction leaves the engine waiting iff it is await-key and no key is down (R193, R218). -/
theorem Effect.mode_awaitKey_iff (h : Effect s i t) (hs : s.mode = .run) :
    t.mode = .awaitKey ↔ s.keyIn = 0 ∧ ∃ x, i = .awaitKey x := by
  cases h with
  | regs _ hmode | skip _ hmode =>
    obtain ⟨-, -, hawait⟩ := ne_of_not_leavesRun hmode
    simp [hs, hawait]
  | look x => rw [lookForKey_mode]; split <;> simpa
  | _ => simp [hs]

end Sys2Proof.Machine.Laws
end

section
/-! What a step keeps: the part of a state that the start of the step, the fetch and the look at the keys leave alone changes
only by the instruction that the step runs (R68). -/

namespace Sys2Proof.Machine.Laws

variable (s : State)

@[simp] theorem beginStep_I : s.beginStep.I = s.I := rfl
@[simp] theorem beginStep_pc : s.beginStep.pc = s.pc := rfl
@[simp] theorem beginStep_mem : s.beginStep.mem = s.mem := rfl
@[simp] theorem beginStep_stack : s.beginStep.stack = s.stack := rfl
@[simp] theorem beginStep_sp : s.beginStep.sp = s.sp := rfl
@[simp] theorem beginStep_delay : s.beginStep.delay = countedDown s.delay := countdown_delay_eq s.sample
@[simp] theorem beginStep_sound : s.beginStep.sound = s.sound := rfl
@[simp] theorem beginStep_ir : s.beginStep.ir = s.ir := rfl
@[simp] theorem beginStep_mode : s.beginStep.mode = s.mode := rfl
@[simp] theorem beginStep_faultCause : s.beginStep.faultCause = s.faultCause := rfl
@[simp] theorem beginStep_fb : s.beginStep.fb = s.fb := rfl
@[simp] theorem beginStep_dispOut : s.beginStep.dispOut = s.dispOut := rfl

/-- The countdown as a number: one less, floored at 0 (R17). -/
theorem countedDown_toNat (d : Byte) : (countedDown d).toNat = d.toNat - 1 := by
  rw [countedDown, BitVec.toNat_ofNat, Nat.mod_eq_of_lt (by omega)]

variable {s} {t : State}

/-- The next state of a step, by cases, an instruction's through its effect. -/
theorem step_next_cases (h : step s = .next t) :
    (s.mode = .fault ∧ t = s) ∨
    (s.mode = .awaitKey ∧ t = s.beginStep.lookForKey (xField s.ir)) ∨
    (∃ i, s.Runs i ∧ Effect s.beginStep.fetch i t) ∨
    (s.mode = .run ∧ (∀ i, ¬ s.Runs i) ∧ t = s.beginStep.fetch) := by
  rcases step_cases s with ⟨hm, e⟩ | ⟨hm, e⟩ | ⟨i, hi, e⟩ | ⟨why, hm, hd, e⟩ <;> rw [e] at h
  · cases h; exact .inl ⟨hm, rfl⟩
  · cases h; exact .inr (.inl ⟨hm, rfl⟩)
  · exact .inr (.inr (.inl ⟨i, hi, effect_of_exec h⟩))
  · cases h; exact .inr (.inr (.inr ⟨hm, not_runs_of_unrecognized s why hd, rfl⟩))

/-- The effect of the instruction that a step runs. -/
theorem effect_of_step {i : Instr} (h : step s = .next t) (hi : s.Runs i) : Effect s.beginStep.fetch i t :=
  effect_of_exec ((step_runs s i hi).symm.trans h)

/-- An instruction of another kind is not the one that runs. -/
theorem ne_of_runs {i j : Instr} (hi : s.Runs i) (hj : ¬ s.Runs j) : i ≠ j := fun e => hj (e ▸ hi)

/-- What the start of the step, the fetch and the look at the keys leave alone is kept, or an instruction ran: what it did is
its effect. -/
theorem step_kept_or_runs {α : Type} (f : State → α) (h : step s = .next t) (hbegin : f s.beginStep = f s)
    (hfetch : f s.beginStep.fetch = f s.beginStep)
    (hlook : s.mode = .awaitKey → f (s.beginStep.lookForKey (xField s.ir)) = f s.beginStep) :
    f t = f s ∨ ∃ i, s.Runs i ∧ Effect s.beginStep.fetch i t := by
  rcases step_next_cases h with ⟨-, rfl⟩ | ⟨hm, rfl⟩ | hrun | ⟨-, -, rfl⟩
  · exact .inl rfl
  · exact .inl ((hlook hm).trans hbegin)
  · exact .inr hrun
  · exact .inl (hfetch.trans hbegin)

/-- It is kept by the whole step when the instruction that runs keeps it, too. -/
theorem step_keeps {α : Type} (f : State → α) (h : step s = .next t) (hbegin : f s.beginStep = f s)
    (hfetch : f s.beginStep.fetch = f s.beginStep)
    (hlook : s.mode = .awaitKey → f (s.beginStep.lookForKey (xField s.ir)) = f s.beginStep)
    (hinstr : ∀ i, s.Runs i → Effect s.beginStep.fetch i t → f t = f s.beginStep.fetch) : f t = f s := by
  rcases step_kept_or_runs f h hbegin hfetch hlook with hkept | ⟨i, hi, he⟩
  · exact hkept
  · exact (hinstr i hi he).trans (hfetch.trans hbegin)

/-! ### The invariant -/

/-- A state in RUN without a fault needs only its memory canonical. -/
theorem inv_of_run (hmem : Memory.wf t.mem) (hmode : t.mode = .run) (hcause : t.faultCause = .none) : t.Inv where
  memory := hmem
  cause := by simp [hmode, hcause]
  waiting h := by simp [hmode] at h
  overflow h := by simp [hcause] at h
  underflow h := by simp [hcause] at h

/-- A look at the keys for a pending await-key keeps the invariant: the word stays in `ir` while the engine waits (R19). -/
theorem inv_lookForKey (x : Reg) (hmem : Memory.wf s.mem) (hcause : s.faultCause = .none)
    (hir : ∃ y, decode s.ir = .instr (.awaitKey y)) : (s.lookForKey x).Inv where
  memory := by simpa using hmem
  cause := by rw [lookForKey_mode]; split <;> simp [hcause]
  waiting _ := by simpa using hir
  overflow h := by simp [hcause] at h
  underflow h := by simp [hcause] at h

/-- An instruction, run as the word in `ir`, keeps the invariant. -/
theorem Effect.inv {i : Instr} (h : Effect s i t) (hmem : Memory.wf s.mem) (hmode : s.mode = .run)
    (hcause : s.faultCause = .none) (hir : decode s.ir = .instr i) : t.Inv := by
  have hmem' := h.mem_wf hmem
  cases h with
  | look x => exact inv_lookForKey x hmem hcause ⟨x, hir⟩
  | overflow nnn hsp => exact ⟨hmem', by simp, by simp, fun _ => ⟨hsp, nnn, hir⟩, by simp⟩
  | underflow hsp => exact ⟨hmem', by simp, by simp, by simp, fun _ => ⟨hsp, hir⟩⟩
  | _ => exact inv_of_run hmem' (by simpa using hmode) (by simpa using hcause)

/-- Settles O11, by cases on the step: FAULT changes nothing, a waiting engine keeps its word in `ir`, and an instruction keeps
the invariant by its effect. -/
theorem everyStepKeepsTheInvariant : Obligations.EveryStepKeepsTheInvariant := by
  intro s t hs h
  have hcause (hm : s.mode ≠ .fault) : s.faultCause = .none := by simpa [hs.cause] using hm
  rcases step_next_cases h with ⟨-, rfl⟩ | ⟨hm, rfl⟩ | ⟨i, hi, he⟩ | ⟨hm, -, rfl⟩
  · exact hs
  · exact inv_lookForKey _ hs.memory (hcause (by simp [hm])) (hs.waiting hm)
  · obtain ⟨hm, hd⟩ := hi
    exact he.inv hs.memory hm (hcause (by simp [hm])) hd
  · exact inv_of_run hs.memory hm (hcause (by simp [hm]))

/-- Settles O10: reset leaves mode RUN, no fault cause and no listed cell. -/
theorem invariantHoldsAtReset : Obligations.InvariantHoldsAtReset :=
  inv_of_run ⟨.nil, by simp [State.reset]⟩ rfl rfl

end Sys2Proof.Machine.Laws
end

section
/-! What every step leaves alone, and what it does to the part of the state that its instruction reaches (R10 to R23). -/

namespace Sys2Proof.Machine.Laws

/-- Settles O19: outside FAULT a look at the keys and a fetch do not stop the engine, and an instruction does so at the stack
bounds only. -/
theorem onlyTheStackBoundsFault : Obligations.OnlyTheStackBoundsFault := by
  intro s t h hs
  rcases step_next_cases h with ⟨hm, -⟩ | ⟨hm, rfl⟩ | ⟨i, hi, he⟩ | ⟨hm, hnone, rfl⟩
  · exact absurd hm hs
  · have hnone := not_runs_of_mode s (by simp [hm])
    rw [lookForKey_mode]
    split <;> simp [hnone]
  · have hruns (j : Instr) : s.Runs j ↔ i = j := ⟨runs_unique s i j hi, fun e => e ▸ hi⟩
    simp only [hruns]
    exact he.mode_fault_iff hi.1
  · simp [hm, hnone]

/-- Settles O20: a look at the keys waits iff no key is down, and of the instructions only await-key looks. -/
theorem onlyAwaitKeyWaits : Obligations.OnlyAwaitKeyWaits := by
  intro s t h
  rcases step_next_cases h with ⟨hm, rfl⟩ | ⟨hm, rfl⟩ | ⟨i, hi, he⟩ | ⟨hm, hnone, rfl⟩
  · have hnone := not_runs_of_mode t (by simp [hm])
    simp [hm, hnone]
  · rw [lookForKey_mode]
    simp [hm]
  · have hruns (j : Instr) : s.Runs j ↔ i = j := ⟨runs_unique s i j hi, fun e => e ▸ hi⟩
    have hm : s.mode = .run := hi.1
    simpa [hruns, hm] using he.mode_awaitKey_iff hm
  · simp [hm, hnone]

/-- Settles O24: of what runs after the countdown only set-delay-timer writes `delay`. -/
theorem delayCountsEveryStep : Obligations.DelayCountsEveryStep := by
  intro s t h
  refine ⟨fun hm => ?_, fun hm hno => ?_, fun x hx => ?_, fun x hx => ?_⟩
  · rw [step_fault s hm] at h
    cases h; rfl
  · have hkept : t.delay = s.beginStep.delay := by
      rcases step_next_cases h with ⟨hf, -⟩ | ⟨-, rfl⟩ | ⟨i, hi, he⟩ | ⟨-, -, rfl⟩
      · exact absurd hf hm
      · exact lookForKey_delay _ _
      · exact he.delay fun x => ne_of_runs hi (hno x)
      · rfl
    rw [hkept, beginStep_delay, countedDown_toNat]
  · rw [step_runs s _ hx] at h
    cases h; rfl
  · rw [step_runs s _ hx] at h
    cases h
    simp [countedDown_toNat]

/-- Settles O25: neither the start of a step nor any other instruction reaches `sound`. -/
theorem soundChangesOnlyBySetSoundTimer : Obligations.SoundChangesOnlyBySetSoundTimer := by
  intro s t h
  refine ⟨fun x hx => ?_, fun hno => ?_⟩
  · rw [step_runs s _ hx] at h
    cases h; rfl
  · exact step_keeps State.sound h rfl rfl (fun _ => lookForKey_sound _ _)
      fun i hi he => he.sound fun x => ne_of_runs hi (hno x)

/-- Settles O27: only the three instructions that write `I` have an effect on it. -/
theorem indexChangesOnlyByIndexInstructions : Obligations.IndexChangesOnlyByIndexInstructions := by
  intro s t h hload hadd hfont
  exact step_keeps State.I h rfl rfl (fun _ => lookForKey_I _ _) fun i hi he =>
    he.index (fun nnn => ne_of_runs hi (hload nnn)) (fun x => ne_of_runs hi (hadd x)) fun x => ne_of_runs hi (hfont x)

/-- Settles O28: only the two stores have an effect on memory, and equal memories read the same. -/
theorem memoryChangesOnlyByTheTwoStores : Obligations.MemoryChangesOnlyByTheTwoStores := by
  intro s t h hbcd hblock
  have hmem : t.mem = s.mem := step_keeps State.mem h rfl rfl (fun _ => lookForKey_mem _ _) fun i hi he =>
    he.mem (fun x => ne_of_runs hi (hbcd x)) fun x => ne_of_runs hi (hblock x)
  exact ⟨hmem, memRead_congr s t hmem⟩

/-- Settles O29: only the two display instructions have an effect on the display. -/
theorem displayChangesOnlyByDisplayInstructions : Obligations.DisplayChangesOnlyByDisplayInstructions := by
  intro s t h hclear hdraw
  have hkept (i : Instr) (hi : s.Runs i) (he : Effect s.beginStep.fetch i t) :=
    he.display (ne_of_runs hi hclear) fun x y n => ne_of_runs hi (hdraw x y n)
  exact ⟨step_keeps State.fb h rfl rfl (fun _ => lookForKey_fb _ _) fun i hi he => (hkept i hi he).1,
    step_keeps State.dispOut h rfl rfl (fun _ => lookForKey_dispOut _ _) fun i hi he => (hkept i hi he).2⟩

/-- Settles O30: the key that ends a wait goes to the register of `ir`, an instruction writes the registers of its row. -/
theorem registersChangeOnlyAsTheTableSays : Obligations.RegistersChangeOnlyAsTheTableSays := by
  intro s t r h hno hwait
  exact step_keeps (State.reg · r) h rfl rfl (fun hm => lookForKey_reg_of_ne _ (hwait hm))
    fun i hi he => he.reg (hno i hi)

/-- Settles O26: the slots and `sp` by the effects; a call and a return by what they do at the depths that fit. -/
theorem onlyCallPushesAndOnlyReturnPops : Obligations.OnlyCallPushesAndOnlyReturnPops := by
  intro s t h
  have hsp := step_kept_or_runs State.sp h rfl rfl fun _ => lookForKey_sp _ _
  refine ⟨fun hno => ⟨?_, ?_⟩, fun hno => ?_, fun nnn hrun j hj => ?_, fun hrun j hj => ?_⟩
  · exact step_keeps State.stack h rfl rfl (fun _ => lookForKey_stack _ _)
      fun i hi he => he.stack fun nnn => ne_of_runs hi (hno nnn)
  · rcases hsp with hkept | ⟨i, hi, he⟩
    · exact hkept.le
    · exact he.sp_le fun nnn => ne_of_runs hi (hno nnn)
  · rcases hsp with hkept | ⟨i, hi, he⟩
    · exact hkept.ge
    · exact he.le_sp (ne_of_runs hi hno)
  · rw [step_runs s _ hrun] at h
    rcases exec_call_cases nnn s.beginStep.fetch with ⟨_, e⟩ | ⟨hfull, _⟩
    · cases e.symm.trans h
      have hother (k : Fin 16) (hk : k ≠ j) : ¬ j.val = k.val := fun e => hk (Fin.ext e.symm)
      simp +contextual [hj, hother]
    · rw [fetch_sp, beginStep_sp] at hfull
      omega
  · rw [step_runs s _ hrun] at h
    rcases exec_ret_cases s.beginStep.fetch with ⟨_, e⟩ | ⟨hempty, _⟩
    · cases e.symm.trans h
      simp [State.top, hj]
    · rw [fetch_sp, beginStep_sp] at hempty
      omega

/-- Settles O31: `pc` advances in the fetch only, and after it only the effects of transfers and skips move it. -/
theorem onlyTransfersAndSkipsMovePc : Obligations.OnlyTransfersAndSkipsMovePc := by
  intro s t h
  refine ⟨fun hm => ?_, fun hm hno => ?_, fun i hi _ => ?_⟩
  · rcases step_next_cases h with ⟨-, rfl⟩ | ⟨-, rfl⟩ | ⟨i, hi, -⟩ | ⟨hrun, -, -⟩
    · rfl
    · simp
    · exact absurd hi.1 hm
    · exact absurd hrun hm
  · rcases step_next_cases h with ⟨hf, -⟩ | ⟨hw, -⟩ | ⟨i, hi, he⟩ | ⟨-, -, rfl⟩
    · simp [hm] at hf
    · simp [hm] at hw
    · exact he.pc_of_not_movesPc (hno i hi)
    · rfl
  · have hpc := (effect_of_step h hi).pc_cases
    rwa [show s.beginStep.fetch.pc + 2 = s.pc + 4 from BitVec.add_assoc s.pc 2 2] at hpc

end Sys2Proof.Machine.Laws
end

section
/-! The results of single instructions in integers (R103 to R108, R126 to R133, R150 to R152, R191, R192), and reset (R24). -/

namespace Sys2Proof.Machine.Laws

variable (s : State)

/-! ### Skips -/

/-- A skip moves nothing but `pc` (R108). -/
theorem skipIf_onlyPc (c : Bool) : OnlyPc s (s.skipIf c) := ⟨rfl, fun _ => rfl⟩

/-- The key of a register that holds a key number (R191). -/
theorem keyOf_val {a : Byte} (h : a.toNat < 16) : (keyOf a).val = a.toNat := Nat.mod_eq_of_lt h

/-- Settles O36: each of the six is `skipIf` of its condition. -/
theorem skipsMovePastOneInstruction : Obligations.SkipsMovePastOneInstruction := by
  intro x y kk ign s
  refine ⟨⟨_, rfl, by simp, skipIf_onlyPc s _⟩, ⟨_, rfl, by simp, skipIf_onlyPc s _⟩, ⟨_, rfl, by simp, skipIf_onlyPc s _⟩,
    ⟨_, rfl, by simp, skipIf_onlyPc s _⟩, fun hx => ⟨⟨_, rfl, skipIf_onlyPc s _, ?_⟩, ⟨_, rfl, skipIf_onlyPc s _, ?_⟩⟩⟩
  · simp [State.keyDown, keyOf_val hx]
  · cases hkey : s.keyIn.getLsbD (s.reg x).toNat <;> simp [State.keyDown, keyOf_val hx, hkey]

/-! ### The index register -/

/-- A write of `I` moves nothing else. -/
theorem setI_onlyIndex (v : Word) : OnlyIndex s (s.setI v) := ⟨rfl, fun _ => rfl⟩

theorem zextAddr_toNat (nnn : Addr) : (zextAddr nnn).toNat = nnn.toNat :=
  BitVec.toNat_setWidth_of_le (by decide)

theorem zextByte_toNat (v : Byte) : (zextByte v).toNat = v.toNat :=
  BitVec.toNat_setWidth_of_le (by decide)

/-- The glyph address of any byte fits in 16 bits (R152). -/
theorem fontAddress_toNat (a : Byte) : (fontAddress a).toNat = 0x050 + 5 * a.toNat :=
  Nat.mod_eq_of_lt (by simp only [fontBase]; omega)

/-- Settles O42: each of the three is one write of `I`. -/
theorem indexInstructions : Obligations.IndexInstructions := by
  intro nnn x s
  refine ⟨⟨_, rfl, zextAddr_toNat nnn, setI_onlyIndex s _⟩, ⟨_, rfl, ?_, setI_onlyIndex s _⟩,
    ⟨_, rfl, fontAddress_toNat _, setI_onlyIndex s _⟩⟩
  rw [setI_I, BitVec.toNat_add, zextByte_toNat]

/-! ### Arithmetic -/

theorem flagByte_toNat (b : Bool) : (flagByte b).toNat = if b then 1 else 0 := by cases b <;> rfl

theorem carryFlag_toNat (a b : Byte) : (carryFlag a b).toNat = if a.toNat + b.toNat > 255 then 1 else 0 := by
  simp [carryFlag, flagByte_toNat]

theorem greaterFlag_toNat (a b : Byte) : (greaterFlag a b).toNat = if a.toNat > b.toNat then 1 else 0 := by
  simp [greaterFlag, flagByte_toNat]

theorem lowBitFlag_toNat (a : Byte) : (lowBitFlag a).toNat = a.toNat % 2 :=
  Nat.mod_eq_of_lt (by omega)

theorem highBitFlag_toNat (a : Byte) : (highBitFlag a).toNat = a.toNat / 128 :=
  Nat.mod_eq_of_lt (by omega)

theorem sumByte_toNat (a b : Byte) : (sumByte a b).toNat = (a.toNat + b.toNat) % 256 := rfl

theorem diffByte_toNat (a b : Byte) :
    (diffByte a b).toNat = if a.toNat ≥ b.toNat then a.toNat - b.toNat else a.toNat + 256 - b.toNat := by
  rw [diffByte, BitVec.toNat_ofInt]
  split <;> omega

theorem halfByte_toNat (a : Byte) : (halfByte a).toNat = a.toNat / 2 :=
  Nat.mod_eq_of_lt (by omega)

theorem doubleByte_toNat (a : Byte) : (doubleByte a).toNat = 2 * a.toNat % 256 := rfl

variable {s} {i : Instr} {x : Reg} {f v : Byte} {result flag : Nat}

/-- An instruction that writes a flag and then a result yields them (R28, R133). -/
theorem yields_setFlagThenReg (h : exec i s = .next (s.setFlagThenReg f x v)) (hv : v.toNat = result)
    (hf : f.toNat = flag) : Yields i s x result flag := by
  refine ⟨_, h, by simp [hv], fun hx => by simp [hx, hf], fun r hr => ?_, rfl, fun _ => rfl⟩
  obtain ⟨hx, hf⟩ := not_or.1 hr
  simp [Ne.symm hx, Ne.symm hf]

/-- An instruction that writes a result only yields it and leaves VF, unless the result goes there (R121). -/
theorem yields_setReg (h : exec i s = .next (s.setReg x v)) (hv : v.toNat = result) :
    Yields i s x result (s.reg 15).toNat := by
  refine ⟨_, h, by simp [hv], fun hx => by simp [hx], fun r hr => ?_, rfl, fun _ => rfl⟩
  simp [Ne.symm (not_or.1 hr).1]

/-- Settles O40: each of the six is one write of a result, five of them after a flag, and these are the table's in integers. -/
theorem exactResultsAndFlags : Obligations.ExactResultsAndFlags := by
  rintro x y kk s _ _ rfl rfl
  exact ⟨yields_setReg rfl (sumByte_toNat _ _),
    yields_setFlagThenReg rfl (sumByte_toNat _ _) (carryFlag_toNat _ _),
    yields_setFlagThenReg rfl (diffByte_toNat _ _) (greaterFlag_toNat _ _),
    yields_setFlagThenReg rfl (diffByte_toNat _ _) (greaterFlag_toNat _ _),
    yields_setFlagThenReg rfl (halfByte_toNat _) (lowBitFlag_toNat _),
    yields_setFlagThenReg rfl (doubleByte_toNat _) (highBitFlag_toNat _)⟩

end Sys2Proof.Machine.Laws
end

section
/-! Reset and program load (R24, R240, R241). -/

namespace Sys2Proof.Machine.Laws

/-- Stored bytes that do not run over 0xFFF, read at any address below 4096. -/
theorem memRead_storeBytes_eq_ite (s : State) (base : Nat) (bs : List Byte) (hfit : base + bs.length ≤ 4096) {a : Nat} (ha : a < 4096) :
    (s.storeBytes base bs).memRead a =
      if base ≤ a ∧ a < base + bs.length then bs.getD (a - base) 0 else s.memRead a := by
  split
  next h =>
    have hj : a - base < bs.length := by omega
    have hread := memRead_storeBytes s base bs (by omega) (a - base) hj
    rwa [Nat.add_sub_cancel' h.1, ← List.getD_eq_getElem _ 0 hj] at hread
  next h => exact memRead_storeBytes_of_outside s base bs a fun j hj => by omega

/-- Outside the font's 80 bytes an unlisted address reads as zero (R24). -/
theorem unlisted_of_outside {a : Nat} (h : ¬ (0x050 ≤ a ∧ a < 0x0A0)) : Memory.unlisted a = 0 := by
  rw [Memory.unlisted]
  split
  next => rfl
  next hlow =>
    have hlen : fontBytes.length = 80 := by decide
    exact List.getD_eq_default _ 0 (by simp only [fontBase] at hlow ⊢; omega)

/-- Storing what memory reads as, into a memory that lists nothing, changes nothing: the canonical form (log 20). -/
theorem storeBytes_unlisted (s : State) (hs : s.mem = []) (base : Nat) (bs : List Byte) (hfit : base + bs.length ≤ 4096)
    (h : ∀ j, (hj : j < bs.length) → bs[j] = Memory.unlisted (base + j)) : s.storeBytes base bs = s := by
  induction bs generalizing base with
  | nil => rfl
  | cons b bs ih =>
    rw [List.length_cons] at hfit
    have hb : b = Memory.unlisted (base % 4096) := by
      rw [Nat.mod_eq_of_lt (by omega)]
      exact h 0 (Nat.succ_pos _)
    have hhead : s.memWrite base b = s := by
      rw [State.memWrite, Memory.write, if_pos hb, hs, List.filter_nil, ← hs]
    rw [State.storeBytes, hhead]
    refine ih (base + 1) (by omega) fun j hj => ?_
    rw [Nat.add_right_comm, Nat.add_assoc]
    exact h (j + 1) (Nat.succ_lt_succ hj)

/-- Memory that lists nothing reads as its reset content (log 20). -/
theorem memRead_of_mem_nil (s : State) (hs : s.mem = []) {a : Nat} (ha : a < 4096) : s.memRead a = Memory.unlisted a := by
  rw [State.memRead, hs, Nat.mod_eq_of_lt ha, Memory.read]

/-- The font's bytes are the unlisted content from 0x050 on (R42). -/
theorem unlisted_font (j : Nat) : Memory.unlisted (fontBase + j) = fontBytes.getD j 0 := by
  rw [Memory.unlisted, if_neg (by omega), Nat.add_sub_cancel_left]

/-- Row `r` of glyph `d` is byte `5 d + r` of FONT (R41, R42). -/
theorem fontBytes_glyph : ∀ d, d < 16 → ∀ r, r < 5 → fontBytes.getD (5 * d + r) 0 = (glyphs.getD d []).getD r 0 := by
  decide

/-- Memory after reset: FONT at 0x050, PROGRAM at 0x200, zero elsewhere (R24, R241). -/
theorem resetCore_memRead (s : State) {font program : List Byte} (hfont : font.length = 80) (hprogram : program.length ≤ 3584)
    {a : Nat} (ha : a < 4096) : (s.resetCore font program).memRead a =
      if 0x050 ≤ a ∧ a < 0x0A0 then font.getD (a - 0x050) 0
      else if 0x200 ≤ a ∧ a < 0x200 + program.length then program.getD (a - 0x200) 0
      else 0 := by
  have hbase : fontBase = 0x050 := rfl
  rw [State.resetCore, memRead_storeBytes_eq_ite _ _ _ (by omega) ha, memRead_storeBytes_eq_ite _ _ _ (by omega) ha,
    memRead_of_mem_nil _ rfl ha, hbase, hfont]
  by_cases hfontAddr : 0x050 ≤ a ∧ a < 0x0A0
  · rw [if_neg (by omega), if_pos hfontAddr, if_pos hfontAddr]
  · rw [if_neg hfontAddr, if_neg hfontAddr, unlisted_of_outside hfontAddr]

/-- Settles O8: the stores of FONT and PROGRAM change memory only, so every other field is as reset sets or leaves it. -/
theorem resetGivesTheTable : Obligations.ResetGivesTheTable := by
  intro font program s hfont hprogram
  refine ⟨_, rfl, ?_, ?_, ?_, ?_, ?_, ?_, ?_, ?_, ?_, ?_, fun a ha => resetCore_memRead s hfont hprogram ha, ?_⟩
  all_goals simp [State.resetCore, State.reg]

/-- Settles O9: FONT is the unlisted content at 0x050, so storing it keeps the empty list of cells. -/
theorem resetStateHoldsTheFont : Obligations.ResetStateHoldsTheFont := by
  refine ⟨?_, fun d r hd hr => ?_⟩
  · rw [State.resetCore, State.storeBytes]
    refine storeBytes_unlisted State.reset rfl fontBase fontBytes (by decide) fun j hj => ?_
    rw [unlisted_font, List.getD_eq_getElem _ 0 hj]
  · rw [memRead_of_mem_nil _ rfl (by omega), Nat.add_assoc, ← fontBytes_glyph d hd r hr]
    exact unlisted_font (5 * d + r)

end Sys2Proof.Machine.Laws
end

section
/-! The two stores and the load of memory (R43, R49, R153 to R156), and the instruction that stored bytes make of the next
fetch (R45, R53, R69). -/

namespace Sys2Proof.Machine.Laws

variable (s : State)

/-! ### The bytes a store leaves -/

/-- Stored bytes change memory only, and there no other byte (R156). -/
theorem storeBytes_onlyBytes (base : Nat) (bs : List Byte) : OnlyBytes base bs.length s (s.storeBytes base bs) :=
  ⟨storeBytes_frame s base bs, memRead_storeBytes_of_outside s base bs⟩

/-- An address is reduced modulo 4096 (R43). -/
theorem memRead_eq_of_mod_eq {a b : Nat} (h : a % 4096 = b % 4096) : s.memRead a = s.memRead b :=
  congrArg (Memory.read s.mem) h

/-- V[i] stands at `base + i` after the store of a block that holds it (R154). -/
theorem memRead_storeBytes_blockBytes (base : Nat) {x i : Reg} (h : i ≤ x) :
    (s.storeBytes base (s.blockBytes x)).memRead (base + i.val) = s.reg i := by
  have hlen := length_blockBytes s x
  have hi : i.val < (s.blockBytes x).length := hlen ▸ Nat.lt_succ_of_le h
  rw [memRead_storeBytes s base _ (by omega) i.val hi, getElem_blockBytes s x i h]

/-- Settles O43: the three digits are the stored bytes. -/
theorem storeBcdWritesThreeDigits : Obligations.StoreBcdWritesThreeDigits := by
  intro x s
  have hdigit (j : Nat) (hj : j < 3) :
      ((s.storeBytes s.I.toNat (bcdDigits (s.reg x))).memRead (s.I.toNat + j)).toNat = (bcdDigits (s.reg x))[j].toNat :=
    congrArg BitVec.toNat (memRead_storeBytes s s.I.toNat (bcdDigits (s.reg x)) (show 3 ≤ 4096 by decide) j hj)
  refine ⟨_, rfl, (hdigit 0 (by decide)).trans ?_, (hdigit 1 (by decide)).trans ?_, (hdigit 2 (by decide)).trans ?_,
    storeBytes_onlyBytes s _ _⟩
  all_goals exact Nat.mod_eq_of_lt (by omega)

/-- Settles O44: the stored bytes are those of the block. -/
theorem storeBlockWritesVZeroToVX : Obligations.StoreBlockWritesVZeroToVX := by
  intro x s
  refine ⟨_, rfl, fun i hi => memRead_storeBytes_blockBytes s s.I.toNat hi, ?_⟩
  rw [← length_blockBytes s x]
  exact storeBytes_onlyBytes s _ _

/-! ### The registers a load leaves -/

/-- Settles O45: a load writes the listed registers only, and V0 to VX are those up to X. -/
theorem loadBlockReadsVZeroToVX : Obligations.LoadBlockReadsVZeroToVX := by
  intro x s
  refine ⟨_, rfl, fun i hi => ?_, fun r hr => ?_, loadRegs_frame s _, loadRegs_memRead s _⟩
  · exact (loadRegs_reg s _ i).trans (if_pos ((mem_regsUpTo x i).2 hi))
  · exact (loadRegs_reg s _ r).trans (if_neg fun h => hr ((mem_regsUpTo x r).1 h))

/-- Settles O46: the load reads, from the same memory at the same `I`, the bytes that the store left there. -/
theorem loadBlockUndoesStoreBlock : Obligations.LoadBlockUndoesStoreBlock := by
  intro x s
  obtain ⟨t, ht, hstored, hframe, -⟩ := storeBlockWritesVZeroToVX x s
  refine ⟨t, ht, fun u hmem hI => ?_⟩
  obtain ⟨v, hv, hloaded, -⟩ := loadBlockReadsVZeroToVX x u
  refine ⟨v, hv, fun i hi => ?_⟩
  have hIt : t.I = s.I := by rw [hframe]
  calc v.reg i = u.memRead (u.I.toNat + i.val) := hloaded i hi
    _ = t.memRead (s.I.toNat + i.val) := by rw [memRead_congr t u hmem, hI, hIt]
    _ = s.reg i := hstored i hi

/-! ### The fetch of stored bytes -/

/-- Bytes stored where `pc` points, wrapping included, are the word fetched there: the first is its high byte (R45, R53). -/
theorem storeBytes_fetchWord {base : Nat} {bs : List Byte} (hpc : s.pc.toNat % 4096 = base % 4096) (htwo : 1 < bs.length)
    (hlen : bs.length ≤ 4096) : (s.storeBytes base bs).fetchWord = bs[0] ++ bs[1] := by
  have hlow : (s.pc.toNat + 1) % 4096 = (base + 1) % 4096 := by omega
  rw [State.fetchWord, storeBytes_pc, memRead_eq_of_mod_eq _ hpc, memRead_eq_of_mod_eq _ hlow]
  exact congrArg₂ (· ++ ·) (memRead_storeBytes s base bs hlen 0 (Nat.zero_lt_of_lt htwo))
    (memRead_storeBytes s base bs hlen 1 htwo)

/-- The placed word is the one fetched next (R45; log 19). -/
theorem placeWord_fetchWord (w : Word) : (s.placeWord w).fetchWord = w :=
  (storeBytes_fetchWord s (bs := [hiByte w, loByte w]) rfl (Nat.lt_add_one 1) (by simp)).trans
    (Sys2Proof.Laws.hiByte_append_loByte w)

/-- Settles O15: placing sets mode RUN and the fetched word. -/
theorem placedWordIsFetched : Obligations.PlacedWordIsFetched := by
  intro s w i hw
  have hword : tableWord 16 w = BitVec.ofNat 16 w := BitVec.eq_of_toNat_eq (Nat.mod_mod _ _)
  rw [runs_iff, State.withFetchWord, placeWord_fetchWord, hword]
  exact ⟨rfl, hw⟩

/-- Settles O47: the block begins with V0 :: V1 and starts where the advanced `pc` points. -/
theorem storedInstructionRunsNext : Obligations.StoredInstructionRunsNext := by
  intro s x i hrun hx hI hi
  have hpc : s.beginStep.fetch.pc.toNat % 4096 = s.I.toNat % 4096 := by
    show (s.pc.toNat + 2) % 65536 % 4096 = s.I.toNat % 4096
    omega
  have hlen := length_blockBytes s x
  have hword : (s.beginStep.fetch.storeBytes s.I.toNat (s.blockBytes x)).fetchWord = s.reg 0 ++ s.reg 1 := by
    rw [storeBytes_fetchWord _ hpc (by omega) (by omega)]
    exact congrArg₂ _ (getElem_blockBytes s x 0 (Fin.zero_le x)) (getElem_blockBytes s x 1 hx)
  refine ⟨_, step_runs s _ hrun, (storeBytes_mode _ _ _).trans hrun.1, ?_⟩
  exact (congrArg decode hword).trans hi

end Sys2Proof.Machine.Laws
end

section
/-! Decoding and encoding (R60 to R67): the decoder and the encoder are inverse to each other on the recognized words, the words
that are left are those of the table of R66, and the mask of a row selects the words that the encoder gives for it. -/

namespace Sys2Proof.Laws

open Sys2Proof.Machine

/-! ### A word from its fields (R62) -/

section

variable {w : Word} {op : Nibble}

theorem encodeA_fields (w : Word) : encodeA (opField w) (nnnField w) = w := by
  apply BitVec.eq_of_toNat_eq
  rw [encodeA_toNat, opField_toNat, nnnField_toNat]
  omega

theorem encodeXK_fields (w : Word) : encodeXK (opField w) (xField w) (kkField w) = w := by
  apply BitVec.eq_of_toNat_eq
  rw [encodeXK_toNat, opField_toNat, xField_val, kkField_toNat]
  omega

theorem encodeXYN_fields (w : Word) : encodeXYN (opField w) (xField w) (yField w) (nField w) = w := by
  apply BitVec.eq_of_toNat_eq
  rw [encodeXYN_toNat, opField_toNat, xField_val, yField_val, nField_toNat]
  omega

/-! The same where the decoder has told the fields that are not operands: the family nibble, and the byte or nibble that is a
sub-function. -/

theorem encodeA_of_op (hop : opField w = op) : encodeA op (nnnField w) = w := hop ▸ encodeA_fields w

theorem encodeXK_of_op (hop : opField w = op) : encodeXK op (xField w) (kkField w) = w := hop ▸ encodeXK_fields w

theorem encodeXK_of_op_kk {kk : Byte} (hop : opField w = op) (hkk : kkField w = kk) : encodeXK op (xField w) kk = w :=
  hkk ▸ encodeXK_of_op hop

theorem encodeXYN_of_op (hop : opField w = op) : encodeXYN op (xField w) (yField w) (nField w) = w :=
  hop ▸ encodeXYN_fields w

theorem encodeXYN_of_op_n {n : Nibble} (hop : opField w = op) (hn : nField w = n) :
    encodeXYN op (xField w) (yField w) n = w := hn ▸ encodeXYN_of_op hop

end

/-! ### What the decoder answers (R64 to R66) -/

/-- The table of R66 in fields. -/
theorem isNoOpWord_iff (w : Word) : IsNoOpWord w ↔
    (opField w = 0x0 ∧ w ≠ 0x00E0 ∧ w ≠ 0x00EE) ∨
    (opField w = 0x8 ∧ nField w ∈ [0x8#4, 0x9#4, 0xA#4, 0xB#4, 0xC#4, 0xD#4, 0xF#4]) ∨
    (opField w = 0xE ∧ kkField w ∉ [0x9E#8, 0xA1#8]) ∨
    (opField w = 0xF ∧ kkField w ∉ [0x07#8, 0x0A#8, 0x15#8, 0x18#8, 0x1E#8, 0x29#8, 0x33#8, 0x55#8, 0x65#8]) := by
  have hop : w.toNat / 4096 % 16 = w.toNat / 4096 := Nat.mod_eq_of_lt (by omega)
  simp [IsNoOpWord, ← BitVec.toNat_inj, opField_toNat, nField_toNat, kkField_toNat, hop]

/-- What the decoder may answer on the word: an instruction that has this word, or, on the words of the table of R66, that the
word is unrecognized. -/
inductive Decodes (w : Word) : Decoded → Prop
  | instr (i : Instr) (h : encode i = w) : Decodes w (.instr i)
  | unrecognized (why : Unrecognized) (h : IsNoOpWord w) : Decodes w (.unrecognized why)

variable {w : Word}

theorem decodes_decodeZero (hop : opField w = 0x0) : Decodes w (decodeZero w) := by
  unfold decodeZero
  split
  case h_1 | h_2 => exact .instr _ rfl
  case h_3 hclear hret => exact .unrecognized _ ((isNoOpWord_iff w).2 (.inl ⟨hop, hclear, hret⟩))

theorem decodes_decodeAlu (hop : opField w = 0x8) : Decodes w (decodeAlu w) := by
  have hother (n : Nibble) : n ∈ [0x0#4, 0x1#4, 0x2#4, 0x3#4, 0x4#4, 0x5#4, 0x6#4, 0x7#4, 0xE#4] ∨
      n ∈ [0x8#4, 0x9#4, 0xA#4, 0xB#4, 0xC#4, 0xD#4, 0xF#4] := by revert n; decide
  unfold decodeAlu
  split
  case h_10 =>
    have hn := (hother (nField w)).resolve_left (by simp_all)
    exact .unrecognized _ ((isNoOpWord_iff w).2 (.inr (.inl ⟨hop, hn⟩)))
  all_goals exact .instr _ (encodeXYN_of_op_n hop ‹_›)

theorem decodes_decodeKey (hop : opField w = 0xE) : Decodes w (decodeKey w) := by
  unfold decodeKey
  split
  case h_3 => exact .unrecognized _ ((isNoOpWord_iff w).2 (.inr (.inr (.inl ⟨hop, by simp_all⟩))))
  all_goals exact .instr _ (encodeXK_of_op_kk hop ‹_›)

theorem decodes_decodeMisc (hop : opField w = 0xF) : Decodes w (decodeMisc w) := by
  unfold decodeMisc
  split
  case h_10 => exact .unrecognized _ ((isNoOpWord_iff w).2 (.inr (.inr (.inr ⟨hop, by simp_all⟩))))
  all_goals exact .instr _ (encodeXK_of_op_kk hop ‹_›)

/-- The decoder, by its families: branch `h_k` is that of the family nibble `k - 1`. -/
theorem decodes_decode (w : Word) : Decodes w (decode w) := by
  unfold decode
  split
  case h_1 h => exact decodes_decodeZero h
  case h_9 h => exact decodes_decodeAlu h
  case h_15 h => exact decodes_decodeKey h
  case h_16 =>
    have hlast (n : Nibble) : n ∈ [0x0#4, 0x1#4, 0x2#4, 0x3#4, 0x4#4, 0x5#4, 0x6#4, 0x7#4, 0x8#4, 0x9#4, 0xA#4, 0xB#4, 0xC#4,
      0xD#4, 0xE#4] ∨ n = 0xF#4 := by revert n; decide
    exact decodes_decodeMisc ((hlast (opField w)).resolve_left (by simp_all))
  case h_2 h | h_3 h | h_11 h | h_12 h => exact .instr _ (encodeA_of_op h)
  case h_4 h | h_5 h | h_7 h | h_8 h | h_13 h => exact .instr _ (encodeXK_of_op h)
  case h_6 h | h_10 h | h_14 h => exact .instr _ (encodeXYN_of_op h)

/-- Settles O3: an instruction that the decoder answers has the word. -/
theorem encodingADecodedWord : Obligations.EncodingADecodedWord := by
  intro w i h
  have hw : Decodes w (.instr i) := h ▸ decodes_decode w
  cases hw with
  | instr _ hi => exact hi

theorem isNoOpWord_of_unrecognized {why : Unrecognized} (h : decode w = .unrecognized why) : IsNoOpWord w := by
  have hw : Decodes w (.unrecognized why) := h ▸ decodes_decode w
  cases hw with
  | unrecognized _ hnoop => exact hnoop

/-! ### Decoding an encoded instruction -/

/-- Settles O2: the decoder branches on the family nibble, in three families also on the sub-function, and reads the operands
back from the fields of the format. -/
theorem decodingAnEncodedInstruction : Obligations.DecodingAnEncodedInstruction := by
  intro i
  cases i with
  | clearScreen | ret => rfl
  -- Format A, then XK, then XY and XYN: the family nibble tells the row.
  | jump | call | loadIndex | jumpOffset => simp [encode, decode]
  | skipEqImm | skipNeImm | loadImm | addImm | randomAnd => simp [encode, decode]
  | skipEqReg | skipNeReg | drawSprite => simp [encode, decode]
  -- Formats XYF and XF: the low nibble or the low byte tells the row.
  | loadReg | or | and | xor | addReg | subReg | shr | subnReg | shl => simp [encode, decode, decodeAlu]
  | skipIfKeyDown | skipIfKeyUp => simp [encode, decode, decodeKey]
  | readDelayTimer | awaitKey | setDelayTimer | setSoundTimer | addToIndex | loadFontAddress | storeBcd | storeBlock
  | loadBlock => simp [encode, decode, decodeMisc]

/-- Settles O5: eleven words are those of instructions, four are literal words of the families with no row. -/
theorem sampleWordsDecode : Obligations.SampleWordsDecode := by
  unfold Obligations.SampleWordsDecode
  decide

/-! ### The mask of a row (R65)

All rows of a family have one mask, so a word can select only the row whose match is the word under the mask of its own
family. -/

/-- The mask of the rows with the family nibble `op`: tiers 1, 3, 4 and 2 of R64. -/
def familyMask (op : Nibble) : Word :=
  if op = 0x0 then 0xFFFF else if op = 0x8 then 0xF00F else if op = 0xE ∨ op = 0xF then 0xF0FF else 0xF000

theorem rowMask_eq_familyMask (j : Instr) : j.rowMask = familyMask (opField j.rowMatch) := by
  cases j <;> simp [Instr.rowMask, Instr.rowMatch, opField, familyMask]

/-- The family nibble is always under the mask. -/
theorem opField_and_familyMask (w : Word) (op : Nibble) : opField (w &&& familyMask op) = opField w := by
  have hop : opField (familyMask op) = 0xF#4 := by revert op; decide
  rw [opField, BitVec.extractLsb'_and]
  exact (congrArg _ hop).trans (Encoding.and_0xF _)

theorem rowMask_eq_of_rowMatch_eq {i j : Instr} (h : i.rowMatch = j.rowMatch) : i.rowMask = j.rowMask := by
  rw [rowMask_eq_familyMask i, h, ← rowMask_eq_familyMask j]

/-- The row that a word selects is the one whose match the word is under the mask of its family. -/
theorem rowMatch_of_selects {j : Instr} (h : w &&& j.rowMask = j.rowMatch) : j.rowMatch = w &&& familyMask (opField w) := by
  have hop : opField j.rowMatch = opField w := by
    rw [← h, rowMask_eq_familyMask, opField_and_familyMask]
  rw [← h, rowMask_eq_familyMask, hop]

/-- The word of an instruction selects the instruction's row. -/
theorem encode_selects_row (i : Instr) : encode i &&& i.rowMask = i.rowMatch := by
  cases i with
  | clearScreen | ret => rfl
  | jump nnn | call nnn | loadIndex nnn | jumpOffset nnn => exact Encoding.mask_A _ nnn
  | skipEqImm x kk | skipNeImm x kk | loadImm x kk | addImm x kk | randomAnd x kk => exact Encoding.mask_XK _ x kk
  | skipEqReg x y n | skipNeReg x y n | drawSprite x y n => exact Encoding.mask_XY _ x y n
  | loadReg x y | or x y | and x y | xor x y | addReg x y | subReg x y | shr x y | subnReg x y | shl x y =>
    exact Encoding.mask_XYF _ x y _
  | skipIfKeyDown x | skipIfKeyUp x | readDelayTimer x | awaitKey x | setDelayTimer x | setSoundTimer x | addToIndex x
  | loadFontAddress x | storeBcd x | storeBlock x | loadBlock x => exact Encoding.mask_XF _ x _

/-- A word selects the row of the instruction that it decodes to. -/
theorem selects_row_of_decode {i : Instr} (h : decode w = .instr i) : w &&& i.rowMask = i.rowMatch :=
  encodingADecodedWord w i h ▸ encode_selects_row i

theorem nField_and_0xF00F (w : Word) : nField (w &&& 0xF00F) = nField w := by
  rw [nField, BitVec.extractLsb'_and]
  exact Encoding.and_0xF _

theorem kkField_and_0xF0FF (w : Word) : kkField (w &&& 0xF0FF) = kkField w := by
  rw [kkField, BitVec.extractLsb'_and]
  exact Encoding.and_0xFF _

/-- Whether a word stands in the table of R66 is told by the bits under the mask of its family. -/
theorem isNoOpWord_and_familyMask (h : IsNoOpWord w) : IsNoOpWord (w &&& familyMask (opField w)) := by
  rw [isNoOpWord_iff, opField_and_familyMask]
  rcases (isNoOpWord_iff w).1 h with ⟨hop, hw⟩ | ⟨hop, hn⟩ | ⟨hop, hkk⟩ | ⟨hop, hkk⟩ <;> rw [hop]
  · have hall : w &&& familyMask 0x0 = w := BitVec.and_allOnes
    exact .inl ⟨rfl, by rwa [hall]⟩
  · exact .inr (.inl ⟨rfl, (congrArg (· ∈ _) (nField_and_0xF00F w)).mpr hn⟩)
  · exact .inr (.inr (.inl ⟨rfl, (congrArg (· ∉ _) (kkField_and_0xF0FF w)).mpr hkk⟩))
  · exact .inr (.inr (.inr ⟨rfl, (congrArg (· ∉ _) (kkField_and_0xF0FF w)).mpr hkk⟩))

/-- No row selects a word of the table. -/
theorem not_isNoOpWord_of_selects {j : Instr} (h : w &&& j.rowMask = j.rowMatch) : ¬ IsNoOpWord w := by
  intro hw
  have hmatch : IsNoOpWord j.rowMatch := rowMatch_of_selects h ▸ isNoOpWord_and_familyMask hw
  cases j <;> simp [IsNoOpWord, Instr.rowMatch] at hmatch

/-- Settles O4: the row that the decoder answers is the one that the word selects, and a word that selects a row is not one of
the unrecognized. -/
theorem wordSelectsItsRowByMask : Obligations.WordSelectsItsRowByMask := by
  refine fun w j => ⟨fun h => ?_, ?_⟩
  · cases hd : decode w with
    | instr i => exact ⟨i, rfl, (rowMatch_of_selects (selects_row_of_decode hd)).trans (rowMatch_of_selects h).symm⟩
    | unrecognized why => exact absurd (isNoOpWord_of_unrecognized hd) (not_isNoOpWord_of_selects h)
  · rintro ⟨i, hd, hrow⟩
    rw [← rowMask_eq_of_rowMatch_eq hrow, ← hrow]
    exact selects_row_of_decode hd

/-! ### The unrecognized words (R66) -/

theorem isNoOpWord_iff_unrecognized (w : Word) : IsNoOpWord w ↔ ∃ why, decode w = .unrecognized why := by
  cases hd : decode w with
  | instr i => simpa using not_isNoOpWord_of_selects (selects_row_of_decode hd)
  | unrecognized why => simpa using isNoOpWord_of_unrecognized hd

/-- Settles O6: the decoder answers "unrecognized" on the words of the table, and then the step ends with its fetch. -/
theorem unrecognizedWordIsANoOp : Obligations.UnrecognizedWordIsANoOp := by
  refine ⟨isNoOpWord_iff_unrecognized, fun s hm hword => ?_⟩
  obtain ⟨why, hd⟩ := (isNoOpWord_iff_unrecognized _).1 hword
  exact Laws.step_unrecognized s why hm hd

/-! ### The fields (R61) and the fields that are ignored (R67) -/

/-- Settles O1: each field is a slice of the word, and a slice as a number is a quotient and a remainder of it. -/
theorem fieldsSitAtTheirBits : Obligations.FieldsSitAtTheirBits := by
  intro w
  have hbit (start len i : Nat) (hi : i < len) : (w.extractLsb' start len).getLsbD i = w.getLsbD (start + i) := by
    rw [BitVec.getLsbD_extractLsb', decide_eq_true hi, Bool.true_and]
  have hlow (len i : Nat) (hi : i < len) : (w.extractLsb' 0 len).getLsbD i = w.getLsbD i := by
    rw [hbit 0 len i hi, Nat.zero_add]
  refine ⟨hbit 12 4, hbit 8 4, hbit 4 4, hlow 4, hlow 8, hlow 12, ?_, ?_⟩
  · rw [kkField_toNat, yField_val, nField_toNat]
    omega
  · rw [nnnField_toNat, xField_val, yField_val, nField_toNat]
    omega

theorem wf_canonical (i : Instr) : i.canonical.wf = true := by cases i <;> rfl

/-- The meanings of the four instructions with an ignored field do not use it; the others are their own canonical form. -/
theorem exec_canonical (i : Instr) (s : State) : exec i.canonical s = exec i s := by cases i <;> rfl

/-- Settles O7: the canonical form is well-formed and runs alike. -/
theorem ignoredFieldsDoNotMatter : Obligations.IgnoredFieldsDoNotMatter :=
  fun i s => ⟨wf_canonical i, exec_canonical i s⟩

end Sys2Proof.Laws
end

section
/-! The parts of a step (R68, R69) and the draw (R176). -/

namespace Sys2Proof.Machine.Laws

/-- Settles O13: the fetched word is the two bytes, and the step goes on by what it decodes to. -/
theorem stepRunsTheFetchedWord : Obligations.StepRunsTheFetchedWord :=
  fun s hm => ⟨fun i hd => step_runs s i ⟨hm, hd⟩, fun why hd => step_unrecognized s why hm hd⟩

/-- Settles O14: the start of a step samples the script's head, or the free values when there is none, and counts down. -/
theorem stepBeginsWithSampleAndCountdown : Obligations.StepBeginsWithSampleAndCountdown := by
  intro s
  have hbegin : s.beginStep = { s.sample with delay := countedDown s.delay } :=
    congrArg (fun d => { s.sample with delay := d }) (countdown_delay_eq s)
  refine ⟨fun p rest h => ?_, fun h => ?_⟩ <;> rw [hbegin, State.sample, State.nextInput, h] <;> rfl

/-! ### The pixels of a sprite -/

variable (s : State) (a b : Byte) {n : Nat}

/-- The plotted pixels are the covered ones (R176). -/
theorem mem_spritePixels (n : Nat) (px : Fin 64) (py : Fin 32) :
    (px, py) ∈ s.spritePixels a b n ↔ s.Covers a b n px py := by
  simp only [State.spritePixels, State.Covers, State.spriteBit, State.ea, spritePos, List.mem_flatMap, List.mem_map,
    List.mem_filter, List.mem_range, Prod.mk.injEq, Fin.ext_iff]
  constructor
  · rintro ⟨r, hr, c, ⟨hc, hbit⟩, hx, hy⟩
    exact ⟨r, c, hr, hc, hbit, hx.symm, hy.symm⟩
  · rintro ⟨r, c, hr, hc, hbit, hx, hy⟩
    exact ⟨r, hr, c, ⟨hc, hbit⟩, hx.symm, hy.symm⟩

/-- Two places of a sprite that fits the screen, wrapped or not, are two pixels (R176, D20). -/
theorem spritePos_inj {r r' c c' : Nat} (hr : r < 32) (hr' : r' < 32) (hc : c < 64) (hc' : c' < 64)
    (h : spritePos a b r c = spritePos a b r' c') : r = r' ∧ c = c' := by
  simp only [spritePos, Prod.mk.injEq, Fin.mk.injEq] at h
  omega

/-- So a sprite of at most 32 rows plots no pixel twice. -/
theorem nodup_spritePixels (hn : n ≤ 32) : (s.spritePixels a b n).Nodup := by
  refine List.nodup_flatMap.2 ⟨fun r hr => ?_, List.nodup_range.pairwise_of_forall_ne fun r hr r' hr' hne => ?_⟩
  · have hr := List.mem_range.1 hr
    refine (List.nodup_range.filter _).map_on fun c hc c' hc' h => ?_
    simp only [List.mem_filter, List.mem_range] at hc hc'
    exact (spritePos_inj a b (by omega) (by omega) (by omega) (by omega) h).2
  · have hr := List.mem_range.1 hr
    have hr' := List.mem_range.1 hr'
    rintro _ hq hq'
    obtain ⟨c, hc, rfl⟩ := List.mem_map.1 hq
    obtain ⟨c', hc', h⟩ := List.mem_map.1 hq'
    simp only [List.mem_filter, List.mem_range] at hc hc'
    exact hne (spritePos_inj a b (by omega) (by omega) (by omega) (by omega) h).1.symm

/-! ### The draw -/

variable {s a b}

/-- A covered pixel is toggled (R176). -/
theorem draw_pixel_of_covers (hn : n ≤ 32) {px : Fin 64} {py : Fin 32} (h : s.Covers a b n px py) :
    (s.draw a b n).pixel px py = !s.pixel px py := by
  rw [draw_pixel, plot_pixel s _ (nodup_spritePixels s a b hn), if_pos ((mem_spritePixels s a b n px py).2 h)]

/-- Any other pixel is kept (R176). -/
theorem draw_pixel_of_not_covers (hn : n ≤ 32) {px : Fin 64} {py : Fin 32} (h : ¬ s.Covers a b n px py) :
    (s.draw a b n).pixel px py = s.pixel px py := by
  rw [draw_pixel, plot_pixel s _ (nodup_spritePixels s a b hn), if_neg (mt (mem_spritePixels s a b n px py).1 h)]

/-- `hit` ends as: some covered pixel was on (R176). -/
theorem plot_spritePixels_hit (hn : n ≤ 32) :
    (s.plot (s.spritePixels a b n)).1 = true ↔ ∃ px py, s.Covers a b n px py ∧ s.pixel px py = true := by
  simp only [plot_hit s _ (nodup_spritePixels s a b hn), List.any_eq_true, Prod.exists, mem_spritePixels]

/-- Gets and xors render nothing (R171, R172). -/
theorem renders_plot (ps : List (Fin 64 × Fin 32)) :
    renders (ps.flatMap fun q => [.get q.1 q.2, .xor q.1 q.2 true]) = 0 := by
  induction ps with
  | nil => rfl
  | cons q ps ih => exact ih

/-- Settles O49: a sprite of at most 15 rows plots each covered pixel once. -/
theorem drawSpriteTogglesAndReportsCollision : Obligations.DrawSpriteTogglesAndReportsCollision := by
  intro x y n s
  have hn : n.toNat ≤ 32 := by omega
  have hvf : (s.draw (s.reg x) (s.reg y) n.toNat).reg 15 =
      flagByte (s.plot (s.spritePixels (s.reg x) (s.reg y) n.toNat)).1 := by simp
  refine ⟨_, rfl, fun px py => draw_pixel_of_covers hn, fun px py => draw_pixel_of_not_covers hn, fun hon => ?_,
    fun hoff => ?_, fun r hr => ?_, ⟨_, draw_dispOut s _ _ _, renders_plot _⟩, draw_frame s _ _ _, draw_memRead s _ _ _⟩
  · rw [hvf, (plot_spritePixels_hit hn).2 hon]
    rfl
  · have hmiss : (s.plot (s.spritePixels (s.reg x) (s.reg y) n.toNat)).1 = false := by
      rw [← Bool.not_eq_true, plot_spritePixels_hit hn]
      rintro ⟨px, py, hcovers, hon⟩
      simp [hoff px py hcovers] at hon
    rw [hvf, hmiss]
    rfl
  · rw [draw_reg, if_neg hr.symm]

end Sys2Proof.Machine.Laws
end

section
/-! Control transfer (R100 to R109): what the jumps, the call and the return change and leave alone. -/

namespace Sys2Proof.Machine.Laws

variable (s : State)

/-! ### Jumps -/

/-- A jump moves nothing but `pc`. -/
theorem setPc_onlyPc (v : Word) : OnlyPc s (s.setPc v) := ⟨rfl, fun _ => rfl⟩

/-- `V0 + nnn` is at most 255 + 4095, so its 16-bit sum is the sum in full (R107). -/
theorem zextByte_add_zextAddr_toNat (v : Byte) (nnn : Addr) : (zextByte v + zextAddr nnn).toNat = v.toNat + nnn.toNat := by
  rw [BitVec.toNat_add, zextByte_toNat, zextAddr_toNat]
  omega

/-- Settles O35: both are one write of `pc`, with a target that 16 bits hold whole. -/
theorem jumpTargets : Obligations.JumpTargets := by
  intro nnn s
  exact ⟨⟨_, rfl, zextAddr_toNat nnn, setPc_onlyPc s _⟩,
    ⟨_, rfl, zextByte_add_zextAddr_toNat (s.reg 0) nnn, setPc_onlyPc s _⟩⟩

/-! ### Call and return -/

/-- A return with an address held pops it (R100). -/
theorem exec_ret_of_pos (h : 0 < s.sp.val) : exec .ret s = .next ((s.pop h).setPc (s.top h)) :=
  congrArg _ (dif_pos h)

/-- A return with none held faults (R211). -/
theorem exec_ret_of_empty (h : s.sp = 0) : exec .ret s = .next (s.raise .stackUnderflow) :=
  congrArg _ (dif_neg (by simp [h]))

/-- A call with room pushes `pc` (R102). -/
theorem exec_call_of_lt (nnn : Addr) (h : s.sp.val < 16) :
    exec (.call nnn) s = .next ((s.push s.pc h).setPc (zextAddr nnn)) :=
  congrArg _ (dif_pos h)

/-- A call with sixteen held faults (R211). -/
theorem exec_call_of_full (nnn : Addr) (h : s.sp = 16) : exec (.call nnn) s = .next (s.raise .stackOverflow) :=
  congrArg _ (dif_neg (by simp [h]))

/-- With `j + 1` addresses held, the newest is in slot `j`. -/
theorem top_eq_slot (h : 0 < s.sp.val) {j : Fin 16} (hj : s.sp.val = j.val + 1) : s.top h = s.stack[j.val] := by
  simp [State.top, hj]

/-- The return address a push leaves: a state with the stack and `sp` of the push has the pushed word on top. -/
theorem top_of_push {u : State} (v : Word) (h : s.sp.val < 16) (hstack : u.stack = (s.push v h).stack)
    (hsp : u.sp = (s.push v h).sp) (hu : 0 < u.sp.val) : u.top hu = v := by
  have hj : u.sp.val = (⟨s.sp.val, h⟩ : Fin 16).val + 1 := congrArg Fin.val hsp
  rw [top_eq_slot u hu hj]
  simp [hstack]

/-- Settles O33: the pop at the slot that holds the newest address, and the fault with none held. -/
theorem returnPopsItsAddress : Obligations.ReturnPopsItsAddress := by
  refine fun s => ⟨fun j hj => ?_, exec_ret_of_empty s⟩
  have hpos : 0 < s.sp.val := by omega
  exact ⟨_, exec_ret_of_pos s hpos, top_eq_slot s hpos hj, by simp [hj], rfl, fun _ => rfl⟩

/-- Settles O34: the push into the first free slot, and the fault with none free. -/
theorem callPushesAndJumps : Obligations.CallPushesAndJumps := by
  refine fun nnn s => ⟨fun j hj => ?_, exec_call_of_full s nnn⟩
  have hroom : s.sp.val < 16 := by omega
  have hother (k : Fin 16) (hk : k ≠ j) : j.val ≠ k.val := fun e => hk (Fin.ext e.symm)
  refine ⟨_, exec_call_of_lt s nnn hroom, ?_, fun k hk => ?_, by simp [hj], zextAddr_toNat nnn, rfl, fun _ => rfl⟩
  · simp [hj]
  · simp [hj, hother k hk]

/-- Settles O37: the return pops the word the call pushed, from the slot the call wrote. -/
theorem returnUndoesCall : Obligations.ReturnUndoesCall := by
  refine fun nnn s hroom => ⟨_, exec_call_of_lt s nnn hroom, fun u hstack hsp => ?_⟩
  have hheld : u.sp.val = s.sp.val + 1 := congrArg Fin.val hsp
  have hpos : 0 < u.sp.val := by omega
  refine ⟨_, exec_ret_of_pos u hpos, top_of_push s s.pc hroom hstack hsp hpos, Fin.ext ?_⟩
  simp [hheld]

end Sys2Proof.Machine.Laws
end

section
/-! Loads, sums and bitwise results (R120 to R125, R131): instructions that write the one register X. -/

namespace Sys2Proof.Machine.Laws

open Sys2Proof.Laws

/-! ### One register written -/

theorem reg_setReg_same (s : State) (x : Reg) (v : Byte) : (s.setReg x v).reg x = v :=
  (reg_setReg s x v x).trans (if_pos rfl)

/-- A write of one register moves nothing else. -/
theorem setReg_onlyRegs (s : State) (x : Reg) (v : Byte) : OnlyRegs (· = x) s (s.setReg x v) :=
  ⟨fun r hr => (reg_setReg s x v r).trans (if_neg (Ne.symm hr)), rfl, fun _ => rfl⟩

/-! ### Load and add of an immediate -/

/-- Under the mask of the formats A, XK and XY a word keeps its family nibble (R64 tier 2). -/
theorem opField_of_and_0xF000 {w m : Word} (h : w &&& 0xF000 = m) : opField w = opField m :=
  h ▸ (opField_and_familyMask w 0x6).symm

theorem decode_of_op_6 {w : Word} (hop : opField w = 0x6) : decode w = .instr (.loadImm (xField w) (kkField w)) := by
  simp [decode, hop]

theorem decode_of_op_7 {w : Word} (hop : opField w = 0x7) : decode w = .instr (.addImm (xField w) (kkField w)) := by
  simp [decode, hop]

/-- Settles O38: the mask leaves the family nibble, on which alone the decoder branches here, and each of the two is one write
of a register. -/
theorem loadImmAndAddImm : Obligations.LoadImmAndAddImm := by
  refine ⟨fun w h => decode_of_op_6 (opField_of_and_0xF000 h), fun w h => decode_of_op_7 (opField_of_and_0xF000 h),
    fun x kk s => ⟨⟨_, rfl, reg_setReg_same s x _, setReg_onlyRegs s x _⟩, ⟨_, rfl, ?_, setReg_onlyRegs s x _⟩⟩⟩
  rw [reg_setReg_same, sumByte_toNat]

/-! ### Copy and bitwise results -/

/-- Settles O39: each of the four is one write of a register, with a value that is given bit by bit. -/
theorem copyAndLogic : Obligations.CopyAndLogic := by
  intro x y s
  refine ⟨⟨_, rfl, reg_setReg_same s x _, setReg_onlyRegs s x _⟩, ⟨_, rfl, setReg_onlyRegs s x _, fun i => ?or⟩,
    ⟨_, rfl, setReg_onlyRegs s x _, fun i => ?and⟩, ⟨_, rfl, setReg_onlyRegs s x _, fun i => ?xor⟩⟩
  case or => rw [reg_setReg_same, BitVec.getLsbD_or]
  case and => rw [reg_setReg_same, BitVec.getLsbD_and]
  case xor => rw [reg_setReg_same, BitVec.getLsbD_xor]

/-- Settles O41: one write of a register, with the AND of the sampled byte. -/
theorem randomAndMasksTheInput : Obligations.RandomAndMasksTheInput := by
  refine fun x kk s => ⟨_, rfl, setReg_onlyRegs s x _, fun i => ?_⟩
  rw [reg_setReg_same, BitVec.getLsbD_and]

end Sys2Proof.Machine.Laws
end

section
/-! The display instructions in full: clear-screen (R173, R175), and a draw undone by the same draw (R176, S8). -/

namespace Sys2Proof.Machine.Laws

/-! ### Clear -/

/-- A clear renders once: the render is part of it, not a second command (R173, C10). -/
theorem renders_dispClear (s : State) : renders s.dispClear.dispOut = renders s.dispOut + 1 := by
  rw [dispClear_dispOut, renders, List.countP_append]
  rfl

/-- Settles O48: clear-screen is one clear of the Display Surface. -/
theorem clearScreenTurnsEveryPixelOff : Obligations.ClearScreenTurnsEveryPixelOff :=
  fun s => ⟨_, rfl, pixel_dispClear s, renders_dispClear s, rfl, fun _ => rfl⟩

/-! ### Drawing twice -/

variable {s : State} {a b : Byte} {n : Nat}

/-- The draw keeps the sprite: its bytes and `I` are what they were. -/
theorem draw_covers_iff (a' b' : Byte) (m : Nat) (px : Fin 64) (py : Fin 32) :
    (s.draw a b n).Covers a' b' m px py ↔ s.Covers a' b' m px py := by
  simp only [State.Covers, draw_memRead, draw_I]

/-- Each covered pixel is toggled twice, any other is kept twice. -/
theorem draw_draw_pixel (hn : n ≤ 32) (px : Fin 64) (py : Fin 32) :
    ((s.draw a b n).draw a b n).pixel px py = s.pixel px py := by
  by_cases h : s.Covers a b n px py
  · rw [draw_pixel_of_covers hn ((draw_covers_iff a b n px py).2 h), draw_pixel_of_covers hn h, Bool.not_not]
  · rw [draw_pixel_of_not_covers hn (mt (draw_covers_iff a b n px py).1 h), draw_pixel_of_not_covers hn h]

theorem flagByte_eq_one_iff (hit : Bool) : flagByte hit = 1 ↔ hit = true := by cases hit <;> decide

/-- VF after a draw says whether a covered pixel was on (R176). -/
theorem draw_reg_15_eq_one_iff (hn : n ≤ 32) :
    (s.draw a b n).reg 15 = 1 ↔ ∃ px py, s.Covers a b n px py ∧ s.pixel px py = true := by
  rw [draw_reg, if_pos rfl, flagByte_eq_one_iff, plot_spritePixels_hit hn]

/-- A sprite covers a pixel, wherever it is drawn, exactly when it has a set bit. -/
theorem exists_covers_iff :
    (∃ px py, s.Covers a b n px py) ↔
      ∃ r c, r < n ∧ c < 8 ∧ (s.memRead (s.I.toNat + r)).getLsbD (7 - c) = true := by
  constructor
  · rintro ⟨px, py, r, c, hr, hc, hbit, -, -⟩
    exact ⟨r, c, hr, hc, hbit⟩
  · rintro ⟨r, c, hr, hc, hbit⟩
    exact ⟨(spritePos a b r c).1, (spritePos a b r c).2, r, c, hr, hc, hbit, rfl, rfl⟩

/-- Over a clear region the first draw turns on what it covers, so the second finds a pixel on iff any is covered. -/
theorem draw_draw_reg_15_eq_one_iff (hn : n ≤ 32) (hoff : ∀ px py, s.Covers a b n px py → s.pixel px py = false) :
    ((s.draw a b n).draw a b n).reg 15 = 1 ↔ ∃ px py, s.Covers a b n px py := by
  have hon (px : Fin 64) (py : Fin 32) (h : s.Covers a b n px py) : (s.draw a b n).pixel px py = true := by
    rw [draw_pixel_of_covers hn h, hoff px py h, Bool.not_false]
  simp only [draw_reg_15_eq_one_iff hn, draw_covers_iff]
  exact exists_congr fun px => exists_congr fun py => and_iff_left_of_imp (hon px py)

/-- Away from VF the draw keeps the registers, so the same coordinates are latched again. -/
theorem draw_reg_of_ne_15 {r : Reg} (hr : r ≠ 15) : (s.draw a b n).reg r = s.reg r := by
  rw [draw_reg, if_neg hr.symm]

/-- Settles O50: coordinates outside VF make the second draw the same draw, on the state after the first. -/
theorem drawingTwiceRestoresTheDisplay : Obligations.DrawingTwiceRestoresTheDisplay := by
  intro x y n s hx hy
  have hn : n.toNat ≤ 32 := by omega
  have hsame : exec (.drawSprite x y n) (s.draw (s.reg x) (s.reg y) n.toNat) =
      .next ((s.draw (s.reg x) (s.reg y) n.toNat).draw (s.reg x) (s.reg y) n.toNat) := by
    rw [exec, execDrawSprite, draw_reg_of_ne_15 hx, draw_reg_of_ne_15 hy]
  refine ⟨_, _, rfl, hsame, screen_ext s _ (draw_draw_pixel hn), fun hoff => ?_⟩
  rw [draw_draw_reg_15_eq_one_iff hn hoff, exists_covers_iff]

end Sys2Proof.Machine.Laws
end

section
/-! Keys and timers (R190 to R196), and the await-key state machine (R218). -/

namespace Sys2Proof.Machine.Laws

/-! ### The least key (R193, D7) -/

/-- There is at most one least key. -/
theorem isLeastKey_unique {keys : BitVec 16} {j k : Key} (hj : IsLeastKey keys j) (hk : IsLeastKey keys k) : j = k := by
  obtain ⟨hjdown, hjlow⟩ := hj
  obtain ⟨hkdown, hklow⟩ := hk
  rcases lt_trichotomy j k with hlt | heq | hgt
  · exact absurd hjdown (Bool.eq_false_iff.1 (hklow j hlt))
  · exact heq
  · exact absurd hkdown (Bool.eq_false_iff.1 (hjlow k hgt))

/-- A sample with a key down has a least one, and the machine's search finds it. -/
theorem exists_leastKey {keys : BitVec 16} (h : keys ≠ 0) : ∃ k, leastKey keys = some k ∧ IsLeastKey keys k := by
  obtain ⟨k, hk⟩ := Option.ne_none_iff_exists'.1 (mt (leastKey_eq_none keys).1 h)
  exact ⟨k, hk, leastKey_spec keys k hk⟩

/-- The machine's search finds the least key. -/
theorem leastKey_of_isLeastKey {keys : BitVec 16} {k : Key} (h : IsLeastKey keys k) : leastKey keys = some k := by
  have hdown : keys ≠ 0 := by
    rintro rfl
    simpa using h.1
  obtain ⟨j, hj, hleast⟩ := exists_leastKey hdown
  exact isLeastKey_unique hleast h ▸ hj

/-- A key number is below 16, so its byte holds it whole. -/
theorem keyByte_toNat (k : Key) : (keyByte k).toNat = k.val := Nat.mod_eq_of_lt (by omega)

/-! ### The look at the keys (R193, R218) -/

variable {s : State}

/-- With no key down the engine waits. -/
theorem lookForKey_of_no_key (x : Reg) (h : s.keyIn = 0) : s.lookForKey x = { s with mode := .awaitKey } := by
  rw [State.lookForKey, (leastKey_eq_none _).2 h]

/-- With a key down the least one goes to the register and the engine runs. -/
theorem lookForKey_of_isLeastKey (x : Reg) {k : Key} (h : IsLeastKey s.keyIn k) :
    s.lookForKey x = { s.setReg x (keyByte k) with mode := .run } := by
  rw [State.lookForKey, leastKey_of_isLeastKey h]

/-- An engine that runs already changes nothing but the register (D8). -/
theorem lookForKey_of_isLeastKey_of_run (x : Reg) {k : Key} (hm : s.mode = .run) (h : IsLeastKey s.keyIn k) :
    s.lookForKey x = s.setReg x (keyByte k) := by
  rw [lookForKey_of_isLeastKey x h, ← hm]
  rfl

/-- The instruction is one look at the keys (R193). -/
theorem exec_awaitKey (x : Reg) (s : State) : exec (.awaitKey x) s = .next (s.lookForKey x) := rfl

/-- Settles O52: in mode RUN a look that finds a key is one write of a register. -/
theorem awaitKeyLooksOnce : Obligations.AwaitKeyLooksOnce := by
  intro x s hm
  rw [exec_awaitKey]
  refine ⟨fun h => congrArg _ (lookForKey_of_no_key x h), fun k hk => ?_⟩
  rw [lookForKey_of_isLeastKey_of_run x hm hk]
  exact ⟨_, rfl, by rw [reg_setReg_same, keyByte_toNat], setReg_onlyRegs s x _⟩

/-- Settles O21: the fetching step looks at the keys for its instruction's register, a waiting step for that of the retained
`ir`; the look waits with no key down and takes the least one otherwise. -/
theorem awaitKeyStateMachine : Obligations.AwaitKeyStateMachine := by
  refine ⟨fun keys h => (exists_leastKey h).imp fun k hk => hk.2,
    fun s => ⟨fun x hx => ?fetching, fun hm => ?waiting⟩⟩
  case fetching =>
    have hm : s.beginStep.fetch.mode = .run := hx.1
    rw [step_runs s _ hx, exec_awaitKey]
    exact ⟨fun h => congrArg _ (lookForKey_of_no_key x h),
      fun k hk => congrArg _ (lookForKey_of_isLeastKey_of_run x hm hk)⟩
  case waiting =>
    have hkept : { s.beginStep with mode := .awaitKey } = s.beginStep := by rw [← hm]; rfl
    rw [step_awaitKey s hm, State.awaitStep, beginStep_ir]
    exact ⟨fun h => congrArg _ ((lookForKey_of_no_key _ h).trans hkept),
      fun k hk => congrArg _ (lookForKey_of_isLeastKey _ hk)⟩

/-! ### The key skips (R191, R192) -/

/-- The key a register asks for is the one its low four bits number (D13). -/
theorem keyDown_keyOf (s : State) (a : Byte) : s.keyDown (keyOf a) = s.keyIn.getLsbD (a.toNat % 16) := rfl

/-- Settles O51: the two skips have opposite conditions on the same key. -/
theorem keySkipsUseTheLowFourBits : Obligations.KeySkipsUseTheLowFourBits := by
  refine fun x s => ⟨⟨_, rfl, skipIf_onlyPc s _, ?down⟩, ⟨_, rfl, skipIf_onlyPc s _, ?up⟩⟩
  case down => rw [skipIf_pc, keyDown_keyOf]
  case up => cases hkey : s.keyIn.getLsbD ((s.reg x).toNat % 16) <;> simp [keyDown_keyOf, hkey]

/-! ### The timers (R194 to R196) -/

/-- Settles O53: one write of a register, of `delay` and of `sound`. -/
theorem timerInstructions : Obligations.TimerInstructions :=
  fun x s => ⟨⟨_, rfl, reg_setReg_same s x _, setReg_onlyRegs s x _⟩, ⟨_, rfl, rfl, fun _ => rfl⟩,
    ⟨_, rfl, rfl, fun _ => rfl⟩⟩

end Sys2Proof.Machine.Laws
end

section
/-! The exceptions (R210 to R213), the outputs (R224), and a wait of any length (R217, R218). -/

namespace Sys2Proof.Machine.Laws

variable {s : State}

/-! ### Every step answers a next state (R210) -/

/-- Each arm is a next state, that of a call or a return also at the stack bounds. -/
theorem exec_next (i : Instr) (s : State) : ∃ t, exec i s = .next t := by
  cases i <;> exact ⟨_, rfl⟩

/-- Settles O16: a step stays, looks at the keys, executes an instruction or ends with its fetch. -/
theorem everyStepAnswersANextState : Obligations.EveryStepAnswersANextState := by
  refine ⟨exec_next, fun s => ?_⟩
  rcases step_cases s with ⟨-, e⟩ | ⟨-, e⟩ | ⟨i, -, e⟩ | ⟨why, -, -, e⟩
  · exact ⟨_, e⟩
  · exact ⟨_, e⟩
  · exact (exec_next i s.beginStep.fetch).imp fun t ht => e.trans ht
  · exact ⟨_, e⟩

/-! ### Mode FAULT (R211 to R213) -/

/-- A state that a step leaves as it is, every run leaves as it is. -/
theorem run_of_fixed (h : step s = .next s) (k : Nat) : Sys2Proof.core.run k s = .next s := by
  induction k with
  | zero => rfl
  | succ k ih => exact (run_succ k s s h).trans ih

/-- Settles O17: a step in FAULT leaves the state as it is, and the stores of a reset keep the mode and cause that it sets. -/
theorem faultModeIsTerminal : Obligations.FaultModeIsTerminal :=
  fun s hm => ⟨run_of_fixed (step_fault s hm), fun font program => by simp [State.resetCore]⟩

/-- Settles O18: the call and the return find the stack as it was before the fetch, and raise the fault on the state after it. -/
theorem faultEntryIsPrecise : Obligations.FaultEntryIsPrecise := by
  refine fun s => ⟨fun nnn hrun hfull => ?overflow, fun hrun hempty => ?underflow⟩
  case overflow => exact (step_runs s _ hrun).trans (exec_call_of_full s.beginStep.fetch nnn hfull)
  case underflow => exact (step_runs s _ hrun).trans (exec_ret_of_empty s.beginStep.fetch hempty)

/-! ### The outputs (R224) -/

/-- Code 0 means no fault (R21). -/
theorem code_eq_zero_iff (c : FaultCause) : c.code = 0 ↔ c = .none := by
  cases c <;> decide

/-- Settles O12: `fault_out` is the code of the cause, which the invariant ties to the mode. -/
theorem outputsFollowTheState : Obligations.OutputsFollowTheState := by
  refine fun s hs => ⟨rfl, ?_, beq_iff_eq⟩
  rw [hs.cause, State.faultOut, ne_eq, code_eq_zero_iff]

/-! ### A wait (R217, R218) -/

/-- A waiting step whose scripted sample shows no key down takes the sample and counts `delay` down. -/
theorem step_awaitKey_of_no_key {p : Input} {rest : List Input} (hm : s.mode = .awaitKey) (hs : s.inputs = p :: rest)
    (hp : p.keys = 0) :
    step s = .next { s with
      keyIn := p.keys, randIn := p.rand, inputs := rest, tick := s.tick + 1, delay := countedDown s.delay } := by
  obtain ⟨hscript, -⟩ := stepBeginsWithSampleAndCountdown s
  obtain ⟨-, hstates⟩ := awaitKeyStateMachine
  obtain ⟨hwait, -⟩ := (hstates s).2 hm
  have hbegin := hscript p rest hs
  rw [hwait (by rw [hbegin, hp]), hbegin]

/-- Settles O22, by induction on the length of the wait: a first step that counts `delay` down, then a shorter wait from the
rest of the script. -/
theorem waitingChangesOnlyDelay : Obligations.WaitingChangesOnlyDelay := by
  intro k
  induction k with
  | zero => exact fun s _ _ _ => ⟨s, rfl, rfl, rfl⟩
  | succ k ih =>
    intro s hm hlen hkeys
    obtain ⟨p, rest, hs⟩ := List.exists_cons_of_length_pos (Nat.zero_lt_of_lt hlen)
    simp only [hs, List.length_cons, List.take_succ_cons, List.forall_mem_cons] at hlen hkeys
    obtain ⟨hp, hrest⟩ := hkeys
    obtain ⟨t, hrun, hdelay, ht⟩ := ih { s with
      keyIn := p.keys, randIn := p.rand, inputs := rest, tick := s.tick + 1, delay := countedDown s.delay } hm
      (Nat.le_of_succ_le_succ hlen) hrest
    refine ⟨t, (run_succ k s _ (step_awaitKey_of_no_key hm hs hp)).trans hrun, ?_, ?_⟩
    · rw [hdelay, countedDown_toNat, Nat.sub_sub, Nat.add_comm]
    · rw [hs, List.drop_succ_cons, Nat.add_comm k, ← Nat.add_assoc]
      exact ht

end Sys2Proof.Machine.Laws
end

section
/-! A jump to its own address (R101, R245): a step leaves all of the state but `ir`, `delay` and the sample. -/

namespace Sys2Proof.Machine.Laws

variable {s : State} {nnn : Addr}

/-- The jump takes back the advance of `pc`, so the step leaves what it began with, and the fetched word in `ir`. -/
theorem step_selfJump (hrun : s.Runs (.jump nnn)) (hself : nnn.toNat = s.pc.toNat) :
    step s = .next { s.beginStep with ir := s.fetchWord } := by
  have htarget : zextAddr nnn = s.beginStep.pc := BitVec.eq_of_toNat_eq ((zextAddr_toNat nnn).trans hself)
  calc step s = .next (s.beginStep.fetch.setPc (zextAddr nnn)) := step_runs s _ hrun
    _ = .next { s.beginStep with ir := s.fetchWord } := by rw [htarget]; rfl

/-- Settles O23, by induction on the number of steps: the first one keeps mode, `pc` and memory, so the same jump runs again
for the steps left. -/
theorem selfJumpStaysPut : Obligations.SelfJumpStaysPut := by
  intro k
  induction k with
  | zero => exact fun s _ hrun _ => ⟨s, rfl, hrun, rfl, rfl⟩
  | succ k ih =>
    intro s nnn hrun hself
    have hagain : State.Runs { s.beginStep with ir := s.fetchWord } (.jump nnn) := hrun
    obtain ⟨t, ht, htruns, hdelay, hframe⟩ := ih _ nnn hagain hself
    refine ⟨t, (run_succ k s _ (step_selfJump hrun hself)).trans ht, htruns, ?_, hframe⟩
    rw [hdelay, beginStep_delay, countedDown_toNat, Nat.sub_sub, Nat.add_comm]

end Sys2Proof.Machine.Laws
end
